-- ==== Sys2Proof/Word.lean ====
section
/-! DEFINITION. The 32-bit pattern, the 33-bit request, and the two value types the block converts between. -/

namespace Sys2Proof

/-- A pattern: a 32-bit value with no meaning beyond its bits; bit 31 is the most significant (R6, R8). -/
abbrev Word := BitVec 32

/-- A request `REQ33 = {dir, in_bits}`: bit 32 is `dir`, bits 31 to 0 are `in_bits` (R40). -/
abbrev Request := BitVec 33

/-- `LowLatencyEncoding`, abbreviated `LL` (R10): 32 wires read with the field table of R34. Any pattern is a
legal value (R38); the two value types are distinct and never coerced into one another (R20). -/
structure LL where
  /-- The pattern held. -/
  bits : Word
deriving DecidableEq, Repr

/-- `StandardEncoding`, abbreviated `STD` (R10): 32 wires read with the field table of R35. Any pattern is a
legal value (R38). -/
structure STD where
  /-- The pattern held. -/
  bits : Word
deriving DecidableEq, Repr

/-- `trunc_N(v)` of R9: the `N` low-order bits of a natural number. -/
abbrev trunc (n v : Nat) : BitVec n := BitVec.ofNat n v

end Sys2Proof
end

