-- ==== Sys2Proof/Config.lean ====
section
/-! DEFINITION. The two parameters the spec offers to a model. Every other width and constant of the block is
fixed (R6). The machine's own values of the parameters stand in Sys2Proof/Machine/Params.lean. -/

namespace Sys2Proof

/-- The open parameters of R7, with the decided values as defaults. No other parameter exists. -/
structure Params where
  /-- `DIR_TO_STANDARD`: the value of `dir` that selects `toStandard` (decision D3). -/
  dirToStandard : BitVec 1 := 0
  /-- `EXP255_LL_EXPONENT`: the low-latency exponent field that `toLowLatency` produces when the standard
  exponent field is 255 (decision D7, R84). -/
  exp255LLExponent : BitVec 7 := 0
deriving DecidableEq, Repr

end Sys2Proof
end

