-- ==== Sys2Proof/Machine/Params.lean ====
section
/-! DEFINITION. The constants of the logic (R43) and the machine's values of the two open parameters (R7). -/

namespace Sys2Proof.Machine

/-- The exponent bias, 127 (R6, R43). -/
def bias : Nat := 127

/-- The mantissa shift amount, 1 bit position: left in `toStandard`, right in `toLowLatency` (R6, R43). -/
def mantShift : Nat := 1

/-- The floor at which `toLowLatency`'s subtraction saturates (R6, R43). -/
def clampFloor : Nat := 0

/-- The standard exponent field whose difference with the bias does not fit 7 bits (R84). -/
def exp255 : Nat := 255

/-- The machine's parameters: the spec's decided values.
`dir = 0` selects `toStandard` (DESIGN CHOICE, unsafe: R41, decision D3, log entry 3).
Exponent field 255 gives exponent field 0 (DESIGN CHOICE, unsafe: R84, decision D7, log entry 4). -/
def params : Params := { dirToStandard := 0, exp255LLExponent := 0 }

end Sys2Proof.Machine
end

