-- ==== Sys2Proof/Syntax.lean ====
section
/-! DEFINITION. The instructions: the two rows of the opcode table (R42). -/

namespace Sys2Proof

/-- The block's complete operation set (R2, R42, R110). An instruction is a request read with the field table of
its operand's type (R44); the type of the operand says which table (R20). -/
inductive Instr where
  /-- `toStandard(low)`: low-latency pattern in, standard pattern out (R67). -/
  | toStandard (low : LL)
  /-- `toLowLatency(std)`: standard pattern in, low-latency pattern out (R80). -/
  | toLowLatency (std : STD)
deriving DecidableEq, Repr

end Sys2Proof
end

