-- ==== Sys2Proof/WellFormed.lean ====
section
/-! DEFINITION. Which terms stand for something the block can be given. The well-formedness of a host sequence
(R48) stands beside its syntax in Sys2Proof/Machine/Sequence.lean. -/

namespace Sys2Proof

/-- Every instruction is well formed: all `2^32` operands of either operation are legal (R38, R46). There is
nothing to check, and so no ill-formed instruction. -/
def Instr.wellFormed : Instr → Bool
  | .toStandard _ => true
  | .toLowLatency _ => true

/-- A number is a request when it fits the 33 input wires (R19, R40). A wider one is no request at all: the wires it
would need do not exist. -/
def requestInRange (w : Nat) : Bool := decide (w < 2 ^ 33)

end Sys2Proof
end

