-- ==== Sys2Proof/Decode.lean ====
section
/-! DEFINITION. The decoder, total on requests; its reading of a number; and the encoder. Both are written from the
request format of R40 and the opcode map of R42. -/

namespace Sys2Proof

/-- The selector of a request, bit 32 (R40). -/
def requestDir (r : Request) : BitVec 1 := r.extractLsb' 32 1

/-- The operand of a request, bits 31 to 0, whole (R40). -/
def requestBits (r : Request) : Word := r.extractLsb' 0 32

/-- The decoder of R42: look at bit 32, the other 32 bits are the operand. Total: every value of `dir` selects an
operation (R41) and every operand is legal (R46). -/
def decode (p : Params) (r : Request) : Instr :=
  if requestDir r = p.dirToStandard then .toStandard ⟨requestBits r⟩ else .toLowLatency ⟨requestBits r⟩

/-- Why a number is rejected. -/
inductive DecodeError where
  /-- The number needs wires the block does not have: it is `2^33` or more. Raised by `decodeNat` only; safe, since
  no request of R40 is rejected (log entry 10). -/
  | wiresAbsent (w : Nat)
deriving DecidableEq, Repr

/-- Decoding of a number, bit 0 its least significant bit: rejected by name when it is no request. -/
def decodeNat (p : Params) (w : Nat) : Except DecodeError Instr :=
  if requestInRange w then .ok (decode p (BitVec.ofNat 33 w)) else .error (.wiresAbsent w)

/-- What the machine's decoder reads from the word `w` of `nbits` bits, numbered as the opcode table numbers them. The
bits from `nbits` up are zero. -/
def decodeTableWord (nbits w : Nat) : Option Instr :=
  match decodeNat Machine.params (w % 2 ^ nbits) with
  | .ok i => some i
  | .error _ => none

/-- The encoder: the request that selects the operation, over the operand's pattern (R40, R42). -/
def encode (p : Params) (i : Instr) : Request :=
  match i with
  | .toStandard low => p.dirToStandard ++ low.bits
  | .toLowLatency std => (~~~ p.dirToStandard) ++ std.bits

end Sys2Proof
end

