-- ==== Sys2Proof/Machine/Operands.lean ====
section
/-! DEFINITION. The value types' constructors, read-back and field accessors (R49 to R62). Decoding an operand is
extracting its fields with the table of its type (R44); nothing here can fail (R63). -/

namespace Sys2Proof

/-- `LL.fromBits(v)`: wraps any pattern verbatim (R50). -/
def LL.fromBits (v : Word) : LL := ⟨v⟩

/-- `LL.zero()`: the all-zero pattern (R49). -/
def LL.zero : LL := LL.fromBits 0x00000000

/-- `representation(x)` for `x : LL`: the pattern, unchanged (R51). -/
def LL.representation (x : LL) : Word := x.bits

/-- `LL.sign(w) = w[31]`, the raw bit (R56). -/
def LL.sign (x : LL) : BitVec 1 := x.bits.extractLsb' 31 1

/-- `LL.exponent(w) = w[30:24]`, unbiased (R57). -/
def LL.exponent (x : LL) : BitVec 7 := x.bits.extractLsb' 24 7

/-- `LL.mantissa(w) = w[23:1]`, right-justified (R58). -/
def LL.mantissa (x : LL) : BitVec 23 := x.bits.extractLsb' 1 23

/-- `LL.reservedFlag(w) = w[0]` (R59). Neither conversion calls it (R45, R73). -/
def LL.reservedFlag (x : LL) : BitVec 1 := x.bits.extractLsb' 0 1

/-- `STD.fromBits(v)`: wraps any pattern verbatim (R53). -/
def STD.fromBits (v : Word) : STD := ⟨v⟩

/-- `STD.zero()`: the all-zero pattern (R52). -/
def STD.zero : STD := STD.fromBits 0x00000000

/-- `representation(x)` for `x : STD`: the pattern, unchanged (R54). -/
def STD.representation (x : STD) : Word := x.bits

/-- `STD.sign(w) = w[31]` (R60). -/
def STD.sign (x : STD) : BitVec 1 := x.bits.extractLsb' 31 1

/-- `STD.exponent(w) = w[30:23]`, biased as stored (R61). -/
def STD.exponent (x : STD) : BitVec 8 := x.bits.extractLsb' 23 8

/-- `STD.mantissa(w) = w[22:0]`, the stored bits only (R62). -/
def STD.mantissa (x : STD) : BitVec 23 := x.bits.extractLsb' 0 23

end Sys2Proof
end

