-- ==== Sys2Proof/Machine/Packers.lean ====
section
/-! DEFINITION. The two packers (R64, R65), the inverses of the accessors of Sys2Proof/Machine/Operands.lean (R66). -/

namespace Sys2Proof.Machine

/-- `pack_STD(s, e, m)`: each argument is cut to the width of its field, then placed (R64). Its fields read back as the
cut arguments, and packing a value's own fields gives the value (R66). -/
def packSTD (s : BitVec 1) (e m : Nat) : STD := STD.fromBits (s ++ trunc 8 e ++ trunc 23 m)

/-- `pack_LL(s, e, m, r)`: each argument is cut to the width of its field, then placed (R65). Its fields read back as the
cut arguments, and packing a value's own fields gives the value (R66). -/
def packLL (s : BitVec 1) (e m : Nat) (r : BitVec 1) : LL := LL.fromBits (s ++ trunc 7 e ++ trunc 23 m ++ r)

end Sys2Proof.Machine
end

