-- ==== Sys2Proof/Machine/ToLowLatency.lean ====
section
/-! DEFINITION. The operation `toLowLatency` (R80 to R95): its steps, the operation, and the raw-word interface.
The functions take the parameters of R7. -/

namespace Sys2Proof.Machine

/-- `sign' = NOT std.sign()` (R82). -/
def lowLatencySign (std : STD) : BitVec 1 := ~~~ std.sign

/-- `std.exponent() - 127`, saturating to 0 instead of underflowing (R83). -/
def saturatingUnbias (e : Nat) : Nat := if e < bias then clampFloor else e - bias

/-- `exponent'` of `toLowLatency`: the saturating difference (R83), and for exponent field 255, whose difference 128
does not fit 7 bits, the parameter `EXP255_LL_EXPONENT` (R84, R7). With the parameter's default 0 this is the packer's
cut of 128 to 7 bits. -/
def lowLatencyExponent (p : Params) (std : STD) : Nat :=
  if std.exponent.toNat = exp255 then p.exp255LLExponent.toNat else saturatingUnbias std.exponent.toNat

/-- `mantissa' = std.mantissa() >> 1`, 22 bits (R85). -/
def lowLatencyMantissa (std : STD) : Nat := std.mantissa.toNat >>> mantShift

/-- `toLowLatency(std)`: the zero special case first, then the generic rule, the reserved flag 0 (R80, R81, R86,
R87). -/
def toLowLatency (p : Params) (std : STD) : LL :=
  if std.representation = 0x00000000 then LL.zero
  else packLL (lowLatencySign std) (lowLatencyExponent p std) (lowLatencyMantissa std) 0

/-- `convertToLowLatency(bits)`: the operation on raw words (R95). -/
def convertToLowLatency (p : Params) (bits : Word) : Word := (toLowLatency p (STD.fromBits bits)).representation

end Sys2Proof.Machine
end

