-- ==== Sys2Proof/Machine/ToStandard.lean ====
section
/-! DEFINITION. The operation `toStandard` (R67 to R79): its steps, the operation, and the raw-word interface. -/

namespace Sys2Proof.Machine

/-- `sign' = NOT low.sign()` (R69). -/
def standardSign (low : LL) : BitVec 1 := ~~~ low.sign

/-- `exponent' = low.exponent() + 127`, an exact sum of naturals (R70). -/
def standardExponent (low : LL) : Nat := low.exponent.toNat + bias

/-- `mantissa' = low.mantissa() << 1`, up to 24 bits before the packer cuts it (R71). -/
def standardMantissa (low : LL) : Nat := low.mantissa.toNat <<< mantShift

/-- `toStandard(low)`: the zero special case first, then the generic rule (R67, R68, R72). -/
def toStandard (low : LL) : STD :=
  if low.representation = 0x00000000 then STD.zero
  else packSTD (standardSign low) (standardExponent low) (standardMantissa low)

/-- `convertToStandard(bits)`: the operation on raw words (R79). -/
def convertToStandard (bits : Word) : Word := (toStandard (LL.fromBits bits)).representation

end Sys2Proof.Machine
end

