-- ==== Sys2Proof/Machine/Convert.lean ====
section
/-! DEFINITION. The function the block computes at its ports (R96). -/

namespace Sys2Proof.Machine

/-- `convert(dir, in_bits)`: `out_bits` as a function of the inputs; only the selected operation is observable (R96,
R97). -/
def convert (p : Params) (dir : BitVec 1) (inBits : Word) : Word :=
  if dir = p.dirToStandard then convertToStandard inBits else convertToLowLatency p inBits

end Sys2Proof.Machine
end

