-- ==== Sys2Proof/Machine/State.lean ====
section
/-! DEFINITION. The state of the machine, and the reasons a step can stop (there are none but an instruction without a
meaning, and no instruction is without one). -/

namespace Sys2Proof.Machine

/-- The values on the block's three ports (R19) at one instant. The block stores nothing (R11 to R18): `inBits` and `dir`
are what the host drives, and `outBits` is `convert(dir, in_bits)` at every instant (R19, R22, R124), so no value of this
type shows any other output. Log entry 1. -/
structure State where
  /-- Input port `in_bits`, the source pattern (R19). -/
  inBits : Word
  /-- Input port `dir`, the direction selector (R19, R41). -/
  dir : BitVec 1
  /-- Output port `out_bits`, the target pattern (R19). -/
  outBits : Word
  /-- The output is a function of the present inputs and of nothing else (R11, R19). -/
  settled : outBits = convert params dir inBits := by decide
deriving DecidableEq, Repr

/-- The block has no fault: every evaluation completes with a result (R111, R115). The type has no constructor, so no
step can answer one. -/
inductive Fault where
deriving DecidableEq, Repr

/-- Reasons to refuse an instruction. The spec gives none (R46, R118); the one constructor is the host's. -/
inductive Refusal where
  /-- An instruction without a meaning, by its mnemonic: raised by an arm of `exec` that has none. No arm raises it.
  Safe: it only stops. -/
  | notModelled (mnemonic : String)
deriving DecidableEq, Repr

/-- The machine before its first request. The block has no reset and no reset value (R22, R124), so the inputs are the
model's: both 0 (DESIGN CHOICE, unsafe, log entry 2). `outBits` is what the block gives for them (R22). -/
def State.reset : State := { inBits := 0, dir := 0, outBits := 0 }

end Sys2Proof.Machine
end

