-- ==== Sys2Proof/Machine/Ops.lean ====
section
/-! DEFINITION. The shared operations on the ports (R19). Whatever drives an input, the output follows it at once. The
block takes no exception and returns from none (R115, R116), so there is no entry and no return to model. -/

namespace Sys2Proof.Machine

/-- The ports while `dir` and `in_bits` are driven with these values: `out_bits = convert(dir, in_bits)` (R96, R124). -/
def State.ofInputs (dir : BitVec 1) (inBits : Word) : State :=
  { inBits, dir, outBits := convert params dir inBits, settled := rfl }

/-- The host drives the port `dir` (R126); the output follows. -/
def State.driveDir (s : State) (d : BitVec 1) : State := State.ofInputs d s.inBits

/-- The host drives the port `in_bits` (R126); the output follows. -/
def State.driveInBits (s : State) (w : Word) : State := State.ofInputs s.dir w

/-- The host drives a whole request `{dir, in_bits}` onto the input wires (R40, R126); the output follows. -/
def State.present (s : State) (r : Request) : State :=
  (s.driveDir (r.extractLsb' 32 1)).driveInBits (r.extractLsb' 0 32)

/-- The request on the input wires, `{dir, in_bits}` (R40). -/
def State.request (s : State) : Request := s.dir ++ s.inBits

end Sys2Proof.Machine
end

