-- ==== Sys2Proof/Machine/Evaluation.lean ====
section
/-! DEFINITION. The meanings of the two instructions. An instruction is a request at the ports: `dir` with its row's value
and `in_bits` with its operand (R67, R80); evaluating it gives the ports with its result on `out_bits`. What the ports
showed before plays no part (R11). -/

namespace Sys2Proof.Machine

/-- The pattern of `toStandard(low)` is what the ports show for its request (R79, R96). -/
theorem toStandard_settles (low : LL) :
    (toStandard low).representation = convert params params.dirToStandard low.representation :=
  (if_pos rfl).symm

/-- The pattern of `toLowLatency(std)` is what the ports show for its request (R95, R96). -/
theorem toLowLatency_settles (std : STD) :
    (toLowLatency params std).representation = convert params (~~~ params.dirToStandard) std.representation :=
  have h : ∀ d : BitVec 1, ~~~ d ≠ d := by decide
  (if_neg (h params.dirToStandard)).symm

/-- The meaning of `toStandard`: the result is on `out_bits`; no flag, no exception (R67, R74). -/
def execToStandard (low : LL) (_s : State) : Host.Outcome State Fault Refusal :=
  .next { dir := params.dirToStandard, inBits := low.representation,
          outBits := (toStandard low).representation, settled := toStandard_settles low }

/-- The meaning of `toLowLatency`: the result is on `out_bits`; no flag, no exception (R80, R88). -/
def execToLowLatency (std : STD) (_s : State) : Host.Outcome State Fault Refusal :=
  .next { dir := ~~~ params.dirToStandard, inBits := std.representation,
          outBits := (toLowLatency params std).representation, settled := toLowLatency_settles std }

end Sys2Proof.Machine
end

