-- ==== Sys2Proof/Machine/Dispatch.lean ====
section
/-! DEFINITION. One arm per instruction. -/

namespace Sys2Proof.Machine

/-- The meaning of each instruction. -/
def exec (i : Instr) (s : State) : Host.Outcome State Fault Refusal :=
  match i with
  | .toStandard low => Sys2Proof.Machine.execToStandard low s
  | .toLowLatency std => Sys2Proof.Machine.execToLowLatency std s

end Sys2Proof.Machine
end

