-- ==== Sys2Proof/Machine/Step.lean ====
section
/-! DEFINITION. One evaluation (R127): the request on the input wires is decoded and run. -/

namespace Sys2Proof.Machine

/-- One evaluation. `dir` is decoded first, since it decides which field table reads `in_bits` (R114). The inputs stay
as the host drives them, so nothing advances (R13), and the result is on the output from the instant they are driven
(R124). -/
def step (s : State) : Host.Outcome State Fault Refusal := exec (decode params s.request) s

/-- The word `w` of `nbits` bits, numbered as the opcode table numbers them, driven onto the input wires, the output
following at once: the request the next step evaluates (log entry 9). There are 33 wires, and bits above them go nowhere (log entry 10). -/
def State.withFetchWord (s : State) (nbits w : Nat) : State := s.present (BitVec.ofNat 33 (w % 2 ^ nbits))

end Sys2Proof.Machine
end

