-- ==== Sys2Proof/Machine/Flags.lean ====
section
/-! DEFINITION. The block has no status flag, condition code or predicate, stored or output (R14), so there is no flag
computation. What stands here are the conditions R14 names as NOT indicated: properties of an operand, read by
no instruction and by no step, kept so that statements about lost information can name them. -/

namespace Sys2Proof.Machine

/-- `toStandard` loses the top mantissa bit of this operand (word bit 23; R71). -/
abbrev losesTopMantissaBit (low : LL) : Prop := low.mantissa.getLsbD 22 = true

/-- The operand's reserved flag is set (R45). -/
abbrev reservedFlagSet (low : LL) : Prop := low.reservedFlag = 1

/-- `toLowLatency` clamps the exponent of this operand (R83). -/
abbrev clampsExponent (std : STD) : Prop := std.exponent.toNat < bias

/-- `toLowLatency`'s exponent difference does not fit 7 bits for this operand (R84). -/
abbrev exceedsExponentField (std : STD) : Prop := std.exponent.toNat = exp255

/-- `toLowLatency` loses the low mantissa bit of this operand (word bit 0; R85). -/
abbrev losesLowMantissaBit (std : STD) : Prop := std.mantissa.getLsbD 0 = true

end Sys2Proof.Machine
end

