-- ==== Sys2Proof/Machine/Sequence.lean ====
section
/-! DEFINITION. The host's side: sequences of requests (R48, R126, R127). The block runs no program (R13); each request
is an evaluation of its own, and a result reaches a later line only because the host feeds it back. -/

namespace Sys2Proof.Machine

/-- The host presents each request in turn, lets the block evaluate it, and reads `out_bits` (R126, R127). The answer
is the list of results, or nothing if a step stops, which none does. -/
def runRequests : List Request → State → Option (List Word)
  | [], _ => some []
  | r :: rs, s =>
    match step (s.present r) with
    | .next t => (runRequests rs t).map (t.outBits :: ·)
    | .fault _ => none
    | .refused _ => none

/-- An operand of a line: a 32-bit numeral, or `%k`, the result of line `k` of the same sequence, lines numbered from 1
(R48). -/
inductive Operand where
  | lit (w : Word)
  | result (k : Nat)
deriving DecidableEq, Repr

/-- A line `<mnemonic> <operand>` (R48). -/
inductive Line where
  | toStandard (o : Operand)
  | toLowLatency (o : Operand)
deriving DecidableEq, Repr

/-- The operand of a line. -/
def Line.operand : Line → Operand
  | .toStandard o => o
  | .toLowLatency o => o

/-- The pattern an operand stands for, given the results of the lines before it; nothing for a line that has not run. -/
def Operand.value (results : List Word) : Operand → Option Word
  | .lit w => some w
  | .result 0 => none
  | .result (k + 1) => results[k]?

/-- The instruction a line asks for, once the host has substituted `%k` (R48). -/
def Line.instr (results : List Word) : Line → Option Instr
  | .toStandard o => (o.value results).map fun w => .toStandard (LL.fromBits w)
  | .toLowLatency o => (o.value results).map fun w => .toLowLatency (STD.fromBits w)

/-- What a line's operation gives on a pattern (R79, R95). -/
def Line.result (w : Word) : Line → Word
  | .toStandard _ => convertToStandard w
  | .toLowLatency _ => convertToLowLatency params w

/-- The host runs the lines in order from a state, given the results so far; the answer is all the results. -/
def runLines : List Line → List Word → State → Option (List Word)
  | [], results, _ => some results
  | l :: ls, results, s =>
    match l.instr results with
    | none => none
    | some i =>
      match step (s.present (encode params i)) with
      | .next t => runLines ls (results ++ [t.outBits]) t
      | .fault _ => none
      | .refused _ => none

/-- An operand after `n` lines refers to one of them (R48: `%k` is the result of line `k` of the same sequence). -/
def Operand.wellFormed (n : Nat) : Operand → Bool
  | .lit _ => true
  | .result k => decide (1 ≤ k ∧ k ≤ n)

/-- Each line after the first `n` refers to lines before it only. -/
def linesWellFormed : List Line → Nat → Bool
  | [], _ => true
  | l :: ls, n => l.operand.wellFormed n && linesWellFormed ls (n + 1)

end Sys2Proof.Machine
end

