-- ==== Sys2Proof/Safety.lean ====
section
/-! DEFINITION. What counts as a safe run, in the terms the statements use. -/

namespace Sys2Proof

/-- The evaluation completes with a result: neither a fault nor a refusal (R111, R115). -/
abbrev Completes (o : Host.Outcome Machine.State Machine.Fault Machine.Refusal) : Prop :=
  ∃ t, o = .next t

/-- The output port shows what the block computes from its inputs: `out_bits = convert(dir, in_bits)`, which holds at
every instant (R22, R124) and so of every state. -/
abbrev Settled (s : Machine.State) : Prop := s.outBits = Machine.convert Machine.params s.dir s.inBits

/-- The output port shows a pattern that the selected operation can produce: R76 (d) for `toStandard`, R90 (a) for
`toLowLatency`. -/
abbrev OutputInImage (s : Machine.State) : Prop :=
  if s.dir = Machine.params.dirToStandard then
    s.outBits = 0 ∨ (s.outBits.getLsbD 0 = false ∧
      127 ≤ (s.outBits >>> 23).toNat % 256 ∧ (s.outBits >>> 23).toNat % 256 ≤ 254)
  else s.outBits &&& 0x00800001#32 = 0#32

end Sys2Proof
end

