-- ==== Sys2Proof/Certificates/Slice0/Obligations.lean ====
section
/-! DEFINITION. The statements for the provers. A statement says `every p` where it holds for every value of the two
open parameters (R7), and `params` where it is about the machine's. -/

open Sys2Proof Sys2Proof.Machine

/-! ## Requests, decoding and encoding -/

/-- Words written out from the encodings of R42 (the rows of 95_test_vectors.md section 2.5) decode to the instruction
they stand for. Rests on the selector's value (decision D3, log entry 3). -/
def Obligations.WrittenWordsDecode : Prop :=
  decode params 0b0_1_0001111_01111111111111110000000_0#33 = .toStandard ⟨0x8F7FFF00⟩ ∧
  decode params 0b0_0_0000000_00000000000000000000000_1#33 = .toStandard ⟨0x00000001⟩ ∧
  decode params 0b0_0_1000111_01111111111111110000000_0#33 = .toStandard ⟨0x477FFF00⟩ ∧
  decode params 0b1_0_10001110_11111111111111100000000#33 = .toLowLatency ⟨0x477FFF00⟩ ∧
  decode params 0b1_1_11111111_11111111111111111111111#33 = .toLowLatency ⟨0xFFFFFFFF⟩ ∧
  decode params 0b1_0_00000000_00000000000000000000000#33 = .toLowLatency ⟨0x00000000⟩

/-- Decoding an encoded well-formed instruction gives it back, every operand at every value, for every p. -/
def Obligations.DecodeOfEncode : Prop :=
  ∀ (p : Params) (i : Instr), i.wellFormed = true → decode p (encode p i) = i

/-- Encoding what a request decodes to gives the request back: no two requests decode alike, for every p. -/
def Obligations.EncodeOfDecode : Prop :=
  ∀ (p : Params) (r : Request), encode p (decode p r) = r

/-- The opcode table's match and mask: each request meets exactly one of the two rows, and it decodes to that row's
instruction over its low 32 bits. Rests on decisions D3 and D10 (log entry 3). -/
def Obligations.TableRowsPartitionRequests : Prop :=
  ∀ r : Request,
    (r &&& 0x100000000#33 = 0x000000000#33 ∧ r &&& 0x100000000#33 ≠ 0x100000000#33 ∧
      decode params r = .toStandard (LL.fromBits (r.setWidth 32))) ∨
    (r &&& 0x100000000#33 = 0x100000000#33 ∧ r &&& 0x100000000#33 ≠ 0x000000000#33 ∧
      decode params r = .toLowLatency (STD.fromBits (r.setWidth 32)))

/-- Nothing but the naming of the two operations depends on the selector's polarity (R41's remark on decision D3):
complementing the parameter and bit 32 of the request changes neither the instruction nor its result. -/
def Obligations.SelectorPolarityIsANaming : Prop :=
  ∀ (d : BitVec 1) (e : BitVec 7) (r : Request) (dir : BitVec 1) (w : Word),
    decode ⟨~~~ d, e⟩ (r ^^^ 0x100000000#33) = decode ⟨d, e⟩ r ∧
    convert ⟨~~~ d, e⟩ (~~~ dir) w = convert ⟨d, e⟩ dir w

/-- A table word of 33 bits or more that fits the wires is decoded; driving it puts exactly it on the wires, with the
output following at once; and the next step runs exactly that instruction. Log entry 9. -/
def Obligations.DrivenTableWordRunsNext : Prop :=
  ∀ (s : State) (nbits w : Nat), 33 ≤ nbits → w < 2 ^ 33 →
    ∃ i, decodeTableWord nbits w = some i ∧
      step (s.withFetchWord nbits w) = exec i (s.withFetchWord nbits w) ∧
      (s.withFetchWord nbits w).request.toNat = w ∧
      (s.withFetchWord nbits w).outBits = (match i with
        | .toStandard low => (toStandard low).representation
        | .toLowLatency std => (toLowLatency params std).representation)

/-- The model's choice (log entry 10): a number that needs more than the 33 wires is rejected, and no other is. -/
def Obligations.OnlyNumbersBeyondTheWiresAreRejected : Prop :=
  ∀ nbits w : Nat, decodeTableWord nbits w = none ↔ 2 ^ 33 ≤ w % 2 ^ nbits

/-! ## The step -/

/-- A step runs the instruction that the request on the input wires decodes to (R40, R96, both decisions). -/
def Obligations.StepRunsTheDecodedInstruction : Prop :=
  ∀ (s : State) (i : Instr), decode params (s.dir ++ s.inBits) = i → i.wellFormed = true → step s = exec i s

/-- From every state a step completes with `convert(dir, in_bits)` on the output, and the input ports as before. The port
reading is R96 (decisions D2 and D3, log entries 1 and 3). -/
def Obligations.StepDrivesConvert : Prop :=
  ∀ s : State, ∃ t, step s = .next t ∧ t.inBits = s.inBits ∧ t.dir = s.dir ∧
    t.outBits = if s.dir = params.dirToStandard then (toStandard (LL.fromBits s.inBits)).representation
      else (toLowLatency params (STD.fromBits s.inBits)).representation

/-- The output is a function of the present inputs and of nothing else (R11). That a state is the ports at one instant, so
that states with equal inputs are the same state, and that a step leaves the state as it is, are the model's choice (log
entry 1). -/
def Obligations.StateIsItsInputs : Prop :=
  (∀ s t : State, s.dir = t.dir → s.inBits = t.inBits → s = t) ∧
  (∃ f : BitVec 1 → Word → Word, ∀ s : State, s.outBits = f s.dir s.inBits) ∧
  ∀ s : State, step s = .next s

/-- At every instant `out_bits = convert(dir, in_bits)`: in every state, the first one among them, and as soon as either
input port or a whole request is driven, before any step; the other input port stays. (R19 and R22, R124, decisions D2
and D5; log entry 1.) -/
def Obligations.OutputFollowsTheInputs : Prop :=
  (∀ s : State, s.outBits = convert params s.dir s.inBits) ∧
  State.reset.outBits = convert params State.reset.dir State.reset.inBits ∧
  ∀ s : State,
    (∀ d, (s.driveDir d).outBits = convert params d s.inBits ∧ (s.driveDir d).dir = d ∧
      (s.driveDir d).inBits = s.inBits) ∧
    (∀ w, (s.driveInBits w).outBits = convert params s.dir w ∧ (s.driveInBits w).inBits = w ∧
      (s.driveInBits w).dir = s.dir) ∧
    ∀ d w, (s.present (d ++ w)).outBits = convert params d w ∧ (s.present (d ++ w)).dir = d ∧
      (s.present (d ++ w)).inBits = w

/-- R46: no request is illegal, and each has exactly one defined result, whatever the state around it. -/
def Obligations.EveryRequestHasExactlyOneResult : Prop :=
  ∀ r : Request, (∃ i, decodeNat params r.toNat = .ok i) ∧
    ∃! out : Word, ∀ s : State, ∃ t, step (s.present r) = .next t ∧ t.request = r ∧ t.outBits = out

/-- R18: two evaluations of one request give one output, whatever was evaluated before each and from whatever state. -/
def Obligations.HistoryDoesNotReachTheOutput : Prop :=
  ∀ (before₁ before₂ : List Request) (s₁ s₂ : State) (r : Request),
    ∃ out, (runRequests (before₁ ++ [r]) s₁).bind List.getLast? = some out ∧
      (runRequests (before₂ ++ [r]) s₂).bind List.getLast? = some out

/-- R128: requests in any order, repeated or not, each give the result of `convert`; and it does not matter which of the
two input ports is driven first. -/
def Obligations.RequestsInAnyOrderGiveConvert : Prop :=
  (∀ (rs : List Request) (s : State), runRequests rs s =
    some (rs.map fun r => convert params (r.extractLsb' 32 1) (r.extractLsb' 0 32))) ∧
  ∀ (s : State) (d : BitVec 1) (w : Word),
    step ((s.driveDir d).driveInBits w) = step ((s.driveInBits w).driveDir d)

/-- A sequence of the host's lines runs exactly when every `%k` refers to an earlier line; it then gives one result a
line, that of the line's operation on its operand with the earlier results substituted. The notation is R48
(decision D12, log entry 11). -/
def Obligations.LinesRunOverEarlierResults : Prop :=
  ∀ (ls : List Line) (s : State), (runLines ls [] s).isSome = linesWellFormed ls 0 ∧
    ∀ results, runLines ls [] s = some results → results.length = ls.length ∧
      ∀ (k : Nat) (l : Line), ls[k]? = some l →
        ∃ w, l.operand.value (results.take k) = some w ∧
          results[k]? = some (l.result w)

/-- The frame of both instructions: after an evaluation the input ports carry the instruction's own request, so that
where they carried it before, as in a step, they are unchanged; and the outcome does not depend on the state. R67 and R80
place the operand on `in_bits` with the row's `dir`; that an evaluation puts it there whatever the ports showed before is
the model's choice (log entry 1). -/
def Obligations.EvaluationLeavesTheInputs : Prop :=
  ∀ (i : Instr) (s t s' : State), exec i s = .next t →
    t.request = encode params i ∧
    (s.request = encode params i → t.inBits = s.inBits ∧ t.dir = s.dir) ∧
    exec i s' = .next t

/-- What a step or an evaluation leaves: a settled output, in the image of the selected operation; and a step changes
nothing, so it is idempotent. Every state is settled by its own field `settled`, and so is in the image, whatever led
to it: that, and that a step leaves the state as it is, are the model's choice (log entry 1). The image is R76 (d) and
R90 (a), which the spec derives. -/
def Obligations.StepSettlesTheOutput : Prop :=
  (∀ s t : State, step s = .next t → Settled t ∧ OutputInImage t ∧ t = s) ∧
  ∀ (i : Instr) (s t : State), exec i s = .next t → Settled t ∧ OutputInImage t

/-- The state before the first request meets the invariant. Its values are the model's (log entry 2). -/
def Obligations.ResetIsSettled : Prop := Settled State.reset ∧ OutputInImage State.reset

/-- Both operations carry word bits 22 to 1 across unchanged and clear word bit 0 (R37 and R89, derived by the spec). -/
def Obligations.MiddleBitsPassThrough : Prop :=
  ∀ s t : State, step s = .next t → t.outBits.getLsbD 0 = false ∧
    ∀ i, 1 ≤ i → i ≤ 22 → t.outBits.getLsbD i = s.inBits.getLsbD i

/-! ## toStandard -/

/-- R67, R69 to R72, R74: `toStandard` completes on every operand in every state; zero gives zero; otherwise the output is
the complemented sign, the exponent plus 127 cut to 8 bits, and the mantissa shifted left by one cut to 23 bits. That
the input ports then carry the instruction's request, whatever they showed before, is the model's choice (log entry 1);
there is nothing else in a state (StateIsItsInputs). -/
def Obligations.ToStandardResult : Prop :=
  ∀ (low : LL) (s : State), ∃ t, exec (.toStandard low) s = .next t ∧
    t.inBits = low.bits ∧ t.dir = params.dirToStandard ∧ t.outBits =
    if low.bits = 0 then 0
    else ~~~ (low.bits.extractLsb' 31 1) ++ BitVec.ofNat 8 ((low.bits.extractLsb' 24 7).toNat + 127) ++
      BitVec.ofNat 23 ((low.bits.extractLsb' 1 23).toNat * 2)

/-- The exponent of a non-zero operand's result is the operand's plus 127 exactly, between 127 and 254 (R70, derived by
the spec from the field's width). -/
def Obligations.ToStandardExponentIsExact : Prop :=
  ∀ low : LL, low.representation ≠ 0 →
    (toStandard low).exponent.toNat = low.exponent.toNat + 127 ∧
      127 ≤ (toStandard low).exponent.toNat ∧ (toStandard low).exponent.toNat ≤ 254

/-- The word-level form of `toStandard`, with both spellings of its middle term (R75, derived by the spec). -/
def Obligations.ToStandardWordForm : Prop :=
  ∀ w : Word,
    convertToStandard w = (if w = 0 then (0 : Word) else
      (~~~ w &&& 0x80000000#32) ||| (((w.extractLsb' 24 7).setWidth 32 + 127#32) <<< 23) ||| (w &&& 0x007FFFFE#32)) ∧
    convertToStandard w = (if w = 0 then (0 : Word) else
      (~~~ w &&& 0x80000000#32) ||| (((w &&& 0x7F000000#32) >>> 1) + 0x3F800000#32) ||| (w &&& 0x007FFFFE#32))

/-- Which patterns `toStandard` produces, and that only zero gives zero (R76 (a), (d), derived by the spec). -/
def Obligations.ToStandardImage : Prop :=
  (∀ w : Word, convertToStandard w = 0 ↔ w = 0) ∧
  ∀ v : Word, (∃ w, convertToStandard w = v) ↔
    v = 0 ∨ (v.getLsbD 0 = false ∧ 127 ≤ (v.extractLsb' 23 8).toNat ∧ (v.extractLsb' 23 8).toNat ≤ 254)

/-- Exactly which operands share a result of `toStandard`: word bits 23 and 0 are dropped, except that zero stands alone
(R73 and R76 (e), derived by the spec). -/
def Obligations.ToStandardSharedResults : Prop :=
  ∀ x y : Word, convertToStandard x = convertToStandard y ↔
    x = y ∨ (x ≠ 0 ∧ y ≠ 0 ∧ x &&& 0xFF7FFFFE#32 = y &&& 0xFF7FFFFE#32)

/-- R45: the reserved flag is stored and read back as given; `toStandard` takes nothing from it but the zero test;
`toLowLatency` always produces it as 0, for every p. -/
def Obligations.ReservedFlagIsInert : Prop :=
  (∀ v : Word, (LL.fromBits v).representation = v ∧ (LL.fromBits v).reservedFlag = v.extractLsb' 0 1) ∧
  (∀ v : Word, v ≠ 0 → v ^^^ 1#32 ≠ 0 → convertToStandard (v ^^^ 1#32) = convertToStandard v) ∧
  convertToStandard 0x00000001 ≠ convertToStandard 0x00000000 ∧
  ∀ (p : Params) (std : STD), (toLowLatency p std).reservedFlag = 0

/-! ## toLowLatency -/

/-- R80 to R83, R85, R86, R88: `toLowLatency` completes on every operand in every state; zero gives zero; otherwise the
output is the complemented sign, the saturating difference with 127, the mantissa shifted right by one, and reserved flag
0. For exponent field 255 the exponent is whatever the parameter `EXP255_LL_EXPONENT` is, and the other fields are as for
any operand: that is the model's and the spec's choice (R84, decision D7, log entry 4). That the input ports
then carry the instruction's request, whatever they showed before, is the model's choice (log entry 1); there is nothing
else in a state (StateIsItsInputs). -/
def Obligations.ToLowLatencyResult : Prop :=
  ∀ (std : STD) (s : State), ∃ t, exec (.toLowLatency std) s = .next t ∧
    t.inBits = std.bits ∧ t.dir = ~~~ params.dirToStandard ∧ t.outBits =
    if std.bits = 0 then 0
    else ~~~ (std.bits.extractLsb' 31 1) ++
      (if std.bits.extractLsb' 23 8 = 255#8 then params.exp255LLExponent
        else BitVec.ofNat 7 (max (std.bits.extractLsb' 23 8).toNat 127 - 127)) ++
      BitVec.ofNat 23 ((std.bits.extractLsb' 0 23).toNat / 2) ++ 0#1

/-- The exponent table of R83, for every p; its last row is the parameter (R84, decision D7, log entry 4). -/
def Obligations.ToLowLatencyExponentTable : Prop :=
  ∀ (p : Params) (std : STD), std.representation ≠ 0 →
    (std.exponent.toNat ≤ 127 → (toLowLatency p std).exponent.toNat = 0) ∧
    (128 ≤ std.exponent.toNat → std.exponent.toNat ≤ 254 →
      (toLowLatency p std).exponent.toNat = std.exponent.toNat - 127) ∧
    (std.exponent.toNat = 255 → (toLowLatency p std).exponent = p.exp255LLExponent)

/-- With the machine's parameter, `toLowLatency` is the pseudocode of R80 with the packer cutting 128 to 7 bits. That
value is the spec's own decision D7 (R84, log entry 4), not a statement of its source. -/
def Obligations.ExponentField255IsCutByThePacker : Prop :=
  ∀ std : STD, toLowLatency params std =
    if std.representation = 0 then LL.zero
    else packLL (~~~ std.sign) (if std.exponent.toNat < 127 then 0 else std.exponent.toNat - 127)
      (std.mantissa.toNat >>> 1) 0

/-- The word-level form of `toLowLatency` (R89, derived by the spec; for exponent field 255 it rests on decision D7, log
entry 4). -/
def Obligations.ToLowLatencyWordForm : Prop :=
  ∀ w : Word, convertToLowLatency params w = if w = 0 then (0 : Word) else
    (~~~ w &&& 0x80000000#32) |||
    ((BitVec.ofNat 7 (max (w.extractLsb' 23 8).toNat 127 - 127)).setWidth 32 <<< 24) ||| (w &&& 0x007FFFFE#32)

/-- Which patterns `toLowLatency` produces: exactly those with word bits 23 and 0 clear (R90 (a), (b), derived by the
spec), for every p. -/
def Obligations.ToLowLatencyImage : Prop :=
  ∀ (p : Params) (v : Word), (∃ w, convertToLowLatency p w = v) ↔ v &&& 0x00800001#32 = 0#32

/-- Which operands `toLowLatency` maps to zero (R91, derived by the spec), for every p: exponent field 255 belongs to them
exactly when the parameter is 0 (decision D7, log entry 4). -/
def Obligations.ToLowLatencyZeroSet : Prop :=
  ∀ (p : Params) (w : Word), convertToLowLatency p w = 0 ↔
    w = 0 ∨ (w.getLsbD 31 = true ∧ w.extractLsb' 1 22 = 0 ∧
      ((w.extractLsb' 23 8).toNat ≤ 127 ∨ ((w.extractLsb' 23 8).toNat = 255 ∧ p.exp255LLExponent = 0)))

/-- R101: an exponent field below 127 is clamped to exactly 0, field 127 gives 0 as well, and the rule's four examples;
for every p. -/
def Obligations.ClampBoundary : Prop :=
  ∀ p : Params,
    (∀ std : STD, std.exponent.toNat < 127 → (toLowLatency p std).exponent = 0) ∧
    (∀ std : STD, std.exponent.toNat = 127 → (toLowLatency p std).exponent = 0) ∧
    convertToLowLatency p 0x00123456 = 0x80123456 ∧ convertToLowLatency p 0x3F123456 = 0x80123456 ∧
    convertToLowLatency p 0x3F000000 = 0x80000000 ∧ convertToLowLatency p 0xBF000000 = 0x00000000

/-! ## Properties of both operations -/

/-- R98: on the zero operand both instructions complete, from every state, with the zero pattern on the output. That the
input ports then carry the instruction's request, zero with the row's `dir`, is the model's choice (log entry 1). -/
def Obligations.ZeroFixpoint : Prop :=
  ∀ s : State,
    (∃ t, exec (.toStandard LL.zero) s = .next t ∧ t.inBits = 0x00000000 ∧ t.dir = params.dirToStandard ∧
      t.outBits = 0x00000000) ∧
    ∃ t, exec (.toLowLatency STD.zero) s = .next t ∧ t.inBits = 0x00000000 ∧ t.dir = ~~~ params.dirToStandard ∧
      t.outBits = 0x00000000

/-- R99: for a non-zero operand the sign bit is complemented in both directions, for every p; for zero it is kept. The
source states the property for any non-zero input; for exponent field 255 it agrees with decision D7's keeping of
the eighth exponent bit out of bit 31 (log entry 4). -/
def Obligations.SignInversion : Prop :=
  ∀ p : Params,
    (∀ w : Word, w ≠ 0 → (convertToStandard w).getLsbD 31 = !w.getLsbD 31 ∧
      (convertToLowLatency p w).getLsbD 31 = !w.getLsbD 31) ∧
    (convertToStandard 0).getLsbD 31 = false ∧ (convertToLowLatency p 0).getLsbD 31 = false

/-- R100: a low-latency exponent comes back from the standard format, whatever the mantissa, for every p. -/
def Obligations.BiasRoundTrip : Prop :=
  ∀ (p : Params) (x : LL), (toLowLatency p (toStandard x)).exponent = x.exponent

/-- R102: each trip loses its own mantissa bit, the top one or the low one; the rule's examples; for every p. The rule is
the spec's resolution C2 (decision D15, log entry 8) against the wording of the source's own property. -/
def Obligations.MantissaTruncation : Prop :=
  ∀ p : Params,
    (∀ x : LL, x.representation ≠ 0 →
      (toLowLatency p (toStandard x)).mantissa.toNat = x.mantissa.toNat % 2 ^ 22) ∧
    (∀ y : STD, (toLowLatency p y).representation ≠ 0 →
      (toStandard (toLowLatency p y)).mantissa = y.mantissa &&& 0x7FFFFE#23) ∧
    convertToStandard 0x00000002 = 0xBF800002 ∧ convertToLowLatency p 0xBF800002 = 0x00000002 ∧
    (LL.fromBits 0x00800000).mantissa = 0x400000 ∧
    (toLowLatency p (toStandard (LL.fromBits 0x00800000))).mantissa = 0 ∧
    (STD.fromBits 0x40000001).mantissa = 1 ∧
    convertToLowLatency p 0x40000001 = 0x81000000 ∧ convertToStandard 0x81000000 = 0x40000000

/-! ## Round-trip laws -/

/-- The round trip from the low-latency format clears word bits 23 and 0 and keeps every other bit; it is the identity
exactly where neither the top mantissa bit nor the reserved flag is set (R104, derived by the spec), for every p. -/
def Obligations.LowLatencyRoundTrip : Prop :=
  ∀ (p : Params) (x : Word),
    convertToLowLatency p (convertToStandard x) = x &&& 0xFF7FFFFE#32 ∧
    (convertToLowLatency p (convertToStandard x) = x ↔
      ¬ losesTopMantissaBit (LL.fromBits x) ∧ ¬ reservedFlagSet (LL.fromBits x))

/-- The round trip from the standard format, in its two cases (R105, derived by the spec). The exponent that comes back
for exponent field 255 is 127 plus the parameter, 127 with the machine's (decision D7, log entry 4). -/
def Obligations.StandardRoundTrip : Prop :=
  ∀ (p : Params) (y : Word),
    convertToStandard (convertToLowLatency p y) =
      if y = 0 ∨ (y.getLsbD 31 = true ∧ y.extractLsb' 1 22 = 0 ∧
          ((y.extractLsb' 23 8).toNat ≤ 127 ∨ ((y.extractLsb' 23 8).toNat = 255 ∧ p.exp255LLExponent = 0))) then (0 : Word)
      else (y &&& 0x80000000#32) |||
        (BitVec.ofNat 32 (if (y.extractLsb' 23 8).toNat = 255 then 127 + p.exp255LLExponent.toNat
          else max (y.extractLsb' 23 8).toNat 127) <<< 23) ||| (y &&& 0x007FFFFE#32)

/-- Exactly which standard patterns survive the round trip: zero, and those that lose nothing, other than `0xBF800000`
(R105, derived by the spec), for every p. -/
def Obligations.StandardRoundTripIdentity : Prop :=
  ∀ (p : Params) (y : Word), convertToStandard (convertToLowLatency p y) = y ↔
    y = 0 ∨ (y ≠ 0xBF800000 ∧ ¬ clampsExponent (STD.fromBits y) ∧ ¬ exceedsExponentField (STD.fromBits y) ∧
      ¬ losesLowMantissaBit (STD.fromBits y))

/-- The triple compositions of R106, derived by the spec: a second round trip changes nothing on the low-latency side, and
on the standard side only at three operands; for every p. -/
def Obligations.TripleCompositions : Prop :=
  ∀ p : Params,
    (∀ y : Word, convertToLowLatency p (convertToStandard (convertToLowLatency p y)) = convertToLowLatency p y) ∧
    ∀ x : Word, if x = 0x00000001 ∨ x = 0x00800000 ∨ x = 0x00800001 then
        convertToStandard (convertToLowLatency p (convertToStandard x)) = 0x00000000 ∧
          convertToStandard x = 0xBF800000
      else convertToStandard (convertToLowLatency p (convertToStandard x)) = convertToStandard x

/-! ## Value types -/

/-- R49, R51, R52, R54, R55: `zero` is the all-zero pattern, its fields all zero; `fromBits` and `representation` are mutually
inverse on every pattern. -/
def Obligations.ConstructorsAndReadBack : Prop :=
  (LL.zero = LL.fromBits 0x00000000 ∧ LL.zero.sign = 0 ∧ LL.zero.exponent = 0 ∧ LL.zero.mantissa = 0 ∧
    LL.zero.reservedFlag = 0) ∧
  (STD.zero = STD.fromBits 0x00000000 ∧ STD.zero.sign = 0 ∧ STD.zero.exponent = 0 ∧ STD.zero.mantissa = 0) ∧
  (∀ v : Word, (LL.fromBits v).representation = v ∧ (STD.fromBits v).representation = v) ∧
  (∀ x : LL, LL.fromBits x.representation = x) ∧ ∀ x : STD, STD.fromBits x.representation = x

/-- R56 to R62: each of the seven accessors is the bit, or the shift and remainder, that its rule gives. -/
def Obligations.AccessorsReadTheirSlices : Prop :=
  ∀ w : Word,
    (LL.fromBits w).sign = BitVec.ofBool (w.getLsbD 31) ∧
    (LL.fromBits w).exponent.toNat = (w >>> 24).toNat % 128 ∧
    (LL.fromBits w).mantissa.toNat = (w >>> 1).toNat % 2 ^ 23 ∧
    (LL.fromBits w).reservedFlag = BitVec.ofBool (w.getLsbD 0) ∧
    (STD.fromBits w).sign = BitVec.ofBool (w.getLsbD 31) ∧
    (STD.fromBits w).exponent.toNat = (w >>> 23).toNat % 256 ∧
    (STD.fromBits w).mantissa.toNat = w.toNat % 2 ^ 23

/-- R36: in each format the masks are pairwise disjoint and cover the word; each accessor returns exactly the bits under
its mask, right-justified; the fields determine the pattern, and the packers invert the accessors both ways, so every
combination of field values in range is a pattern. -/
def Obligations.FieldsPartitionThePattern : Prop :=
  [0x80000000#32, 0x7F000000#32, 0x00FFFFFE#32, 0x00000001#32].Pairwise (fun a b => a &&& b = 0#32) ∧
  0x80000000#32 ||| 0x7F000000#32 ||| 0x00FFFFFE#32 ||| 0x00000001#32 = 0xFFFFFFFF#32 ∧
  (∀ x : LL,
    x.sign.setWidth 32 = (x.bits &&& 0x80000000#32) >>> 31 ∧
    x.exponent.setWidth 32 = (x.bits &&& 0x7F000000#32) >>> 24 ∧
    x.mantissa.setWidth 32 = (x.bits &&& 0x00FFFFFE#32) >>> 1 ∧
    x.reservedFlag.setWidth 32 = x.bits &&& 0x00000001#32) ∧
  [0x80000000#32, 0x7F800000#32, 0x007FFFFF#32].Pairwise (fun a b => a &&& b = 0#32) ∧
  0x80000000#32 ||| 0x7F800000#32 ||| 0x007FFFFF#32 = 0xFFFFFFFF#32 ∧
  (∀ x : STD,
    x.sign.setWidth 32 = (x.bits &&& 0x80000000#32) >>> 31 ∧
    x.exponent.setWidth 32 = (x.bits &&& 0x7F800000#32) >>> 23 ∧
    x.mantissa.setWidth 32 = x.bits &&& 0x007FFFFF#32) ∧
  (∀ x : LL, packLL x.sign x.exponent.toNat x.mantissa.toNat x.reservedFlag = x) ∧
  (∀ x : STD, packSTD x.sign x.exponent.toNat x.mantissa.toNat = x) ∧
  (∀ (s : BitVec 1) (e : BitVec 7) (m : BitVec 23) (r : BitVec 1),
    (packLL s e.toNat m.toNat r).sign = s ∧ (packLL s e.toNat m.toNat r).exponent = e ∧
    (packLL s e.toNat m.toNat r).mantissa = m ∧ (packLL s e.toNat m.toNat r).reservedFlag = r) ∧
  ∀ (s : BitVec 1) (e : BitVec 8) (m : BitVec 23),
    (packSTD s e.toNat m.toNat).sign = s ∧ (packSTD s e.toNat m.toNat).exponent = e ∧
    (packSTD s e.toNat m.toNat).mantissa = m

/-- R64: `pack_STD` cuts each argument to the width of its field and places it, for every argument. -/
def Obligations.PackStandardCutsAndPlaces : Prop :=
  ∀ (s : BitVec 1) (e m : Nat),
    (packSTD s e m).representation = s ++ BitVec.ofNat 8 e ++ BitVec.ofNat 23 m ∧
    (packSTD s e m).representation =
    (s.setWidth 32 <<< 31) ||| (BitVec.ofNat 32 (e % 2 ^ 8) <<< 23) ||| BitVec.ofNat 32 (m % 2 ^ 23)

/-- `pack_LL` cuts each argument to the width of its field and places it, for every argument. That it cuts as `pack_STD`
does is R65's reading, for the value 128 the spec's decision D7 (log entry 4). -/
def Obligations.PackLowLatencyCutsAndPlaces : Prop :=
  ∀ (s : BitVec 1) (e m : Nat) (r : BitVec 1), (packLL s e m r).representation =
    (s.setWidth 32 <<< 31) ||| (BitVec.ofNat 32 (e % 2 ^ 7) <<< 24) ||| (BitVec.ofNat 32 (m % 2 ^ 23) <<< 1) |||
      r.setWidth 32

/-- R66, which the spec derives: packing a value's own fields gives the value; and the fields of a packed pattern read back
as the arguments, each cut to the width of its field, for every argument. -/
def Obligations.AccessorsInvertPackers : Prop :=
  (∀ w : Word,
    packLL (LL.fromBits w).sign (LL.fromBits w).exponent.toNat (LL.fromBits w).mantissa.toNat
      (LL.fromBits w).reservedFlag = LL.fromBits w ∧
    packSTD (STD.fromBits w).sign (STD.fromBits w).exponent.toNat (STD.fromBits w).mantissa.toNat = STD.fromBits w) ∧
  (∀ (s : BitVec 1) (e m : Nat), (packSTD s e m).sign = s ∧ (packSTD s e m).exponent.toNat = e % 2 ^ 8 ∧
    (packSTD s e m).mantissa.toNat = m % 2 ^ 23) ∧
  ∀ (s : BitVec 1) (e m : Nat) (r : BitVec 1), (packLL s e m r).sign = s ∧
    (packLL s e m r).exponent.toNat = e % 2 ^ 7 ∧ (packLL s e m r).mantissa.toNat = m % 2 ^ 23 ∧
    (packLL s e m r).reservedFlag = r
end

