-- ==== Sys2Proof/Laws/Fields.lean ====
section
/-! SUPPORT. The accessors and packers as arithmetic on the pattern read as a number: the spec lemmas from which linear
arithmetic settles a claim about fields. -/

namespace Sys2Proof

theorem LL.sign_toNat (x : LL) : x.sign.toNat = x.bits.toNat / 2 ^ 31 := by
  have h := x.bits.isLt
  simp only [LL.sign, BitVec.extractLsb'_toNat, Nat.shiftRight_eq_div_pow]
  omega

theorem LL.exponent_toNat (x : LL) : x.exponent.toNat = x.bits.toNat / 2 ^ 24 % 2 ^ 7 := by
  simp only [LL.exponent, BitVec.extractLsb'_toNat, Nat.shiftRight_eq_div_pow]

theorem LL.mantissa_toNat (x : LL) : x.mantissa.toNat = x.bits.toNat / 2 % 2 ^ 23 := by
  simp only [LL.mantissa, BitVec.extractLsb'_toNat, Nat.shiftRight_eq_div_pow, Nat.pow_one]

theorem LL.reservedFlag_toNat (x : LL) : x.reservedFlag.toNat = x.bits.toNat % 2 := by
  simp only [LL.reservedFlag, BitVec.extractLsb'_toNat, Nat.shiftRight_zero, Nat.pow_one]

theorem STD.sign_toNat (x : STD) : x.sign.toNat = x.bits.toNat / 2 ^ 31 := by
  have h := x.bits.isLt
  simp only [STD.sign, BitVec.extractLsb'_toNat, Nat.shiftRight_eq_div_pow]
  omega

theorem STD.exponent_toNat (x : STD) : x.exponent.toNat = x.bits.toNat / 2 ^ 23 % 2 ^ 8 := by
  simp only [STD.exponent, BitVec.extractLsb'_toNat, Nat.shiftRight_eq_div_pow]

theorem STD.mantissa_toNat (x : STD) : x.mantissa.toNat = x.bits.toNat % 2 ^ 23 := by
  simp only [STD.mantissa, BitVec.extractLsb'_toNat, Nat.shiftRight_zero]

@[simp] theorem LL.fromBits_bits (v : Word) : (LL.fromBits v).bits = v := rfl
@[simp] theorem STD.fromBits_bits (v : Word) : (STD.fromBits v).bits = v := rfl
@[simp] theorem LL.zero_bits : LL.zero.bits = 0 := rfl
@[simp] theorem STD.zero_bits : STD.zero.bits = 0 := rfl
@[simp] theorem LL.representation_eq (x : LL) : x.representation = x.bits := rfl
@[simp] theorem STD.representation_eq (x : STD) : x.representation = x.bits := rfl

/-- An appended bit vector read as a number. -/
theorem append_toNat {m n : Nat} (x : BitVec m) (y : BitVec n) :
    (x ++ y).toNat = x.toNat * 2 ^ n + y.toNat := by
  rw [BitVec.toNat_append, ← Nat.shiftLeft_add_eq_or_of_lt y.isLt, Nat.shiftLeft_eq]

namespace Machine

/-- The packed standard pattern as a number (R64). -/
theorem packSTD_toNat (s : BitVec 1) (e m : Nat) :
    (packSTD s e m).bits.toNat = s.toNat * 2 ^ 31 + e % 2 ^ 8 * 2 ^ 23 + m % 2 ^ 23 := by
  simp only [packSTD, STD.fromBits, append_toNat, BitVec.toNat_ofNat]
  omega

/-- The packed low-latency pattern as a number (R65). -/
theorem packLL_toNat (s : BitVec 1) (e m : Nat) (r : BitVec 1) :
    (packLL s e m r).bits.toNat = s.toNat * 2 ^ 31 + e % 2 ^ 7 * 2 ^ 24 + m % 2 ^ 23 * 2 + r.toNat := by
  simp only [packLL, LL.fromBits, append_toNat, BitVec.toNat_ofNat]
  omega

/-- The accessors read back what the packers placed, each argument cut to its field (R64, R65). -/
theorem packSTD_sign (s : BitVec 1) (e m : Nat) : (packSTD s e m).sign = s := by
  have := s.isLt
  simp only [← BitVec.toNat_inj, STD.sign_toNat, packSTD_toNat]
  omega

theorem packSTD_exponent (s : BitVec 1) (e m : Nat) : (packSTD s e m).exponent = trunc 8 e := by
  simp only [← BitVec.toNat_inj, STD.exponent_toNat, packSTD_toNat, BitVec.toNat_ofNat]
  omega

theorem packSTD_mantissa (s : BitVec 1) (e m : Nat) : (packSTD s e m).mantissa = trunc 23 m := by
  simp only [← BitVec.toNat_inj, STD.mantissa_toNat, packSTD_toNat, BitVec.toNat_ofNat]
  omega

theorem packLL_sign (s : BitVec 1) (e m : Nat) (r : BitVec 1) : (packLL s e m r).sign = s := by
  have := s.isLt
  have := r.isLt
  simp only [← BitVec.toNat_inj, LL.sign_toNat, packLL_toNat]
  omega

theorem packLL_exponent (s : BitVec 1) (e m : Nat) (r : BitVec 1) : (packLL s e m r).exponent = trunc 7 e := by
  have := r.isLt
  simp only [← BitVec.toNat_inj, LL.exponent_toNat, packLL_toNat, BitVec.toNat_ofNat]
  omega

theorem packLL_mantissa (s : BitVec 1) (e m : Nat) (r : BitVec 1) : (packLL s e m r).mantissa = trunc 23 m := by
  have := r.isLt
  simp only [← BitVec.toNat_inj, LL.mantissa_toNat, packLL_toNat, BitVec.toNat_ofNat]
  omega

theorem packLL_reservedFlag (s : BitVec 1) (e m : Nat) (r : BitVec 1) : (packLL s e m r).reservedFlag = r := by
  have := r.isLt
  simp only [← BitVec.toNat_inj, LL.reservedFlag_toNat, packLL_toNat]
  omega

end Machine

/-- Values of either type are equal when their patterns are. -/
theorem LL.eq_of_bits {a b : LL} (h : a.bits = b.bits) : a = b := by
  cases a
  exact congrArg LL.mk h

theorem STD.eq_of_bits {a b : STD} (h : a.bits = b.bits) : a = b := by
  cases a
  exact congrArg STD.mk h

end Sys2Proof
end

