-- ==== Sys2Proof/Laws/Conversions.lean ====
section
/-! SUPPORT. One spec lemma per conversion: its result on zero, and its result's pattern as a number otherwise. -/

namespace Sys2Proof.Machine

/-- Step 1 of `toStandard` (R68). -/
theorem toStandard_of_zero (low : LL) (h : low.bits = 0) : toStandard low = STD.zero := by
  simp [toStandard, h]

/-- Step 2 of `toStandard` as arithmetic (R69 to R72). -/
theorem toStandard_toNat (low : LL) (h : low.bits ≠ 0) :
    (toStandard low).bits.toNat = (1 - low.bits.toNat / 2 ^ 31) * 2 ^ 31 +
      (low.bits.toNat / 2 ^ 24 % 2 ^ 7 + 127) * 2 ^ 23 + low.bits.toNat / 2 % 2 ^ 22 * 2 := by
  have hw := low.bits.isLt
  have hz : ¬ low.representation = 0x00000000 := by simpa using h
  simp only [toStandard, if_neg hz, packSTD_toNat, standardSign, standardExponent, standardMantissa,
    BitVec.toNat_not, LL.sign_toNat, LL.exponent_toNat, LL.mantissa_toNat, bias, mantShift, Nat.shiftLeft_eq]
  omega

/-- Step 1 of `toLowLatency` (R81). -/
theorem toLowLatency_of_zero (p : Params) (std : STD) (h : std.bits = 0) : toLowLatency p std = LL.zero := by
  simp [toLowLatency, h]

/-- `exponent'` of `toLowLatency` by cases on the standard exponent field, and its bound (R83, R84). -/
theorem lowLatencyExponent_spec (p : Params) (std : STD) :
    (std.bits.toNat / 2 ^ 23 % 2 ^ 8 = 255 ∧ lowLatencyExponent p std = p.exp255LLExponent.toNat ∨
      std.bits.toNat / 2 ^ 23 % 2 ^ 8 ≤ 127 ∧ lowLatencyExponent p std = 0 ∨
      128 ≤ std.bits.toNat / 2 ^ 23 % 2 ^ 8 ∧ std.bits.toNat / 2 ^ 23 % 2 ^ 8 ≤ 254 ∧
        lowLatencyExponent p std = std.bits.toNat / 2 ^ 23 % 2 ^ 8 - 127) ∧
    lowLatencyExponent p std < 2 ^ 7 := by
  have hp := p.exp255LLExponent.isLt
  simp only [lowLatencyExponent, saturatingUnbias, STD.exponent_toNat, exp255, bias, clampFloor]
  split_ifs <;> omega

/-- Step 2 of `toLowLatency` as arithmetic (R82 to R87). -/
theorem toLowLatency_toNat (p : Params) (std : STD) (h : std.bits ≠ 0) :
    (toLowLatency p std).bits.toNat = (1 - std.bits.toNat / 2 ^ 31) * 2 ^ 31 +
      lowLatencyExponent p std * 2 ^ 24 + std.bits.toNat / 2 % 2 ^ 22 * 2 := by
  have hw := std.bits.isLt
  have he := (lowLatencyExponent_spec p std).2
  have hz : ¬ std.representation = 0x00000000 := by simpa using h
  have h0 : (0 : BitVec 1).toNat = 0 := rfl
  simp only [toLowLatency, if_neg hz, packLL_toNat, lowLatencySign, lowLatencyMantissa, BitVec.toNat_not,
    STD.sign_toNat, STD.mantissa_toNat, mantShift, Nat.shiftRight_eq_div_pow, h0]
  omega

end Sys2Proof.Machine
end

