-- ==== Sys2Proof/Laws/State.lean ====
section
/-! SUPPORT. A state is its inputs; one lemma per port per operation, so that no proof unfolds one; and requests on the
wires. -/

namespace Sys2Proof.Machine

/-- States with the same inputs are the same: there is nothing else in a state (R11). -/
theorem State.eq_of_inputs {s t : State} (hd : s.dir = t.dir) (hi : s.inBits = t.inBits) : s = t := by
  obtain ⟨i, d, o, h⟩ := s
  obtain ⟨i', d', o', h'⟩ := t
  subst hd hi h h'
  rfl

@[simp] theorem State.ofInputs_inBits (d : BitVec 1) (w : Word) : (State.ofInputs d w).inBits = w := rfl
@[simp] theorem State.ofInputs_dir (d : BitVec 1) (w : Word) : (State.ofInputs d w).dir = d := rfl
@[simp] theorem State.ofInputs_outBits (d : BitVec 1) (w : Word) :
    (State.ofInputs d w).outBits = convert params d w := rfl

@[simp] theorem State.driveDir_inBits (s : State) (d : BitVec 1) : (s.driveDir d).inBits = s.inBits := rfl
@[simp] theorem State.driveDir_dir (s : State) (d : BitVec 1) : (s.driveDir d).dir = d := rfl
@[simp] theorem State.driveDir_outBits (s : State) (d : BitVec 1) :
    (s.driveDir d).outBits = convert params d s.inBits := rfl

@[simp] theorem State.driveInBits_inBits (s : State) (w : Word) : (s.driveInBits w).inBits = w := rfl
@[simp] theorem State.driveInBits_dir (s : State) (w : Word) : (s.driveInBits w).dir = s.dir := rfl
@[simp] theorem State.driveInBits_outBits (s : State) (w : Word) :
    (s.driveInBits w).outBits = convert params s.dir w := rfl

@[simp] theorem State.present_inBits (s : State) (r : Request) : (s.present r).inBits = r.extractLsb' 0 32 := rfl
@[simp] theorem State.present_dir (s : State) (r : Request) : (s.present r).dir = r.extractLsb' 32 1 := rfl
@[simp] theorem State.present_outBits (s : State) (r : Request) :
    (s.present r).outBits = convert params (r.extractLsb' 32 1) (r.extractLsb' 0 32) := rfl

@[simp] theorem State.reset_inBits : State.reset.inBits = 0 := rfl
@[simp] theorem State.reset_dir : State.reset.dir = 0 := rfl
@[simp] theorem State.reset_outBits : State.reset.outBits = 0 := rfl

/-- The selector of a request `{dir, in_bits}` (R40). -/
@[simp] theorem requestDir_append (d : BitVec 1) (w : Word) : requestDir (d ++ w) = d := by
  have hd := d.isLt
  have hw := w.isLt
  apply BitVec.eq_of_toNat_eq
  simp only [requestDir, BitVec.extractLsb'_toNat, append_toNat, Nat.shiftRight_eq_div_pow]
  omega

/-- The operand of a request `{dir, in_bits}` (R40). -/
@[simp] theorem requestBits_append (d : BitVec 1) (w : Word) : requestBits (d ++ w) = w := by
  have hw := w.isLt
  apply BitVec.eq_of_toNat_eq
  simp only [requestBits, BitVec.extractLsb'_toNat, append_toNat, Nat.shiftRight_zero]
  omega

@[simp] theorem State.request_dir (s : State) : requestDir s.request = s.dir := requestDir_append _ _
@[simp] theorem State.request_bits (s : State) : requestBits s.request = s.inBits := requestBits_append _ _

/-- The wires show the request that was driven onto them. -/
@[simp] theorem State.present_request (s : State) (r : Request) : (s.present r).request = r := by
  apply BitVec.eq_of_toNat_eq
  have h := r.isLt
  simp only [State.request, State.present_dir, State.present_inBits, append_toNat, BitVec.extractLsb'_toNat,
    Nat.shiftRight_eq_div_pow]
  omega

/-- Driving the request that is on the wires already changes nothing. -/
@[simp] theorem State.present_own_request (s t : State) : t.present s.request = s :=
  State.eq_of_inputs s.request_dir s.request_bits

end Sys2Proof.Machine
end

