-- ==== Sys2Proof/Laws/Exec.lean ====
section
/-! SUPPORT. What an evaluation can do, said once: it gives the ports of its instruction's request, with its result on the
output, whatever the ports showed before. -/

namespace Sys2Proof.Machine

/-- The pattern an instruction gives with the machine's parameters. -/
def resultOf : Instr → Word
  | .toStandard low => (toStandard low).representation
  | .toLowLatency std => (toLowLatency params std).representation

/-- The result of an instruction is `convert` of its request's halves (R96). -/
theorem resultOf_eq (i : Instr) :
    resultOf i = convert params (requestDir (encode params i)) (requestBits (encode params i)) := by
  cases i with
  | toStandard low => simpa [encode, resultOf] using toStandard_settles low
  | toLowLatency std => simpa [encode, resultOf] using toLowLatency_settles std

/-- The one outcome of an instruction, from any state: the ports carrying its request. -/
theorem exec_eq (i : Instr) (s : State) : exec i s = .next (s.present (encode params i)) := by
  cases i with
  | toStandard low =>
    exact congrArg Host.Outcome.next (State.eq_of_inputs
      (requestDir_append params.dirToStandard low.bits).symm (requestBits_append params.dirToStandard low.bits).symm)
  | toLowLatency std =>
    exact congrArg Host.Outcome.next (State.eq_of_inputs
      (requestDir_append (~~~ params.dirToStandard) std.bits).symm
      (requestBits_append (~~~ params.dirToStandard) std.bits).symm)

/-- Inversion of an instruction's outcome: its request on the inputs, its result on the output. -/
theorem exec_next {i : Instr} {s t : State} (h : exec i s = .next t) :
    t = s.present (encode params i) ∧ t.outBits = resultOf i := by
  rw [exec_eq] at h
  obtain rfl := Host.Outcome.next.inj h
  exact ⟨rfl, (resultOf_eq i).symm⟩

end Sys2Proof.Machine
end

