-- ==== Sys2Proof/Laws/Masks.lean ====
section
/-! SUPPORT. The masks of the word-level forms (R75, R89, R104) as arithmetic on the pattern read as a number. -/

namespace Sys2Proof

/-- Masking with the bits from `lo` up to `hi` keeps that slice in place. -/
theorem and_slice_toNat (w m : Word) (lo hi : Nat) (hl : lo ≤ hi) (hm : m.toNat = 2 ^ hi - 2 ^ lo) :
    (w &&& m).toNat = w.toNat / 2 ^ lo % 2 ^ (hi - lo) * 2 ^ lo := by
  rw [BitVec.toNat_and, hm]
  have h : 2 ^ hi - 2 ^ lo = (2 ^ (hi - lo) - 1) <<< lo := by
    rw [Nat.shiftLeft_eq, Nat.sub_mul, ← Nat.pow_add, Nat.sub_add_cancel hl, Nat.one_mul]
  rw [h, ← Nat.shiftLeft_eq, ← Nat.shiftRight_eq_div_pow, ← Nat.and_two_pow_sub_one_eq_mod]
  apply Nat.eq_of_testBit_eq
  intro i
  by_cases hi' : lo ≤ i <;>
    simp [Nat.testBit_and, Nat.testBit_shiftLeft, Nat.testBit_shiftRight, hi', Bool.and_comm]

/-- Bits 22 to 1, which both conversions carry across. -/
theorem and_middle_toNat (w : Word) : (w &&& 0x007FFFFE#32).toNat = w.toNat / 2 % 2 ^ 22 * 2 :=
  and_slice_toNat w _ 1 23 (by decide) (by decide)

/-- Bit 31. -/
theorem and_sign_toNat (w : Word) : (w &&& 0x80000000#32).toNat = w.toNat / 2 ^ 31 % 2 * 2 ^ 31 :=
  and_slice_toNat w _ 31 32 (by decide) (by decide)

/-- Bits 30 to 24, the low-latency exponent. -/
theorem and_exponent_toNat (w : Word) : (w &&& 0x7F000000#32).toNat = w.toNat / 2 ^ 24 % 2 ^ 7 * 2 ^ 24 :=
  and_slice_toNat w _ 24 31 (by decide) (by decide)

end Sys2Proof
end

