-- ==== Sys2Proof/Laws/PerInstr.lean ====
section
/-! SUPPORT. Statements made per instruction, about the instruction as syntax. -/

namespace Sys2Proof.Laws.RequestLayout

/-- The request an instruction is encoded as holds its operand's pattern in bits 31 to 0 and, in bit 32, the selector
value of its row (R40, R41, R42). -/
def Statement (i : Instr) : Prop :=
  ∀ p : Params, match i with
    | .toStandard low => requestBits (encode p i) = low.bits ∧ requestDir (encode p i) = p.dirToStandard
    | .toLowLatency std => requestBits (encode p i) = std.bits ∧ requestDir (encode p i) ≠ p.dirToStandard

theorem toStandard (low : LL) : Statement (.toStandard low) := fun p => by
  simp [encode]

theorem toLowLatency (std : STD) : Statement (.toLowLatency std) := fun p => by
  refine ⟨by simp [encode], ?_⟩
  have h : ∀ d : BitVec 1, ~~~ d ≠ d := by decide
  simp [encode, h p.dirToStandard]

end Sys2Proof.Laws.RequestLayout
end

