-- ==== Sys2Proof/Tests/Slice0.lean ====
section
/-! SUPPORT. The model's own tests. Expected values come from spec/95_test_vectors.md and from the rules' own examples
unless a comment says otherwise; the request words are written out from the encodings of R42. -/

open Sys2Proof Sys2Proof.Machine

/-- The state after an outcome, if there is one. -/
def Sys2Proof.Tests.stateAfter (o : Host.Outcome State Fault Refusal) : Option State :=
  match o with
  | .next t => some t
  | .fault _ => none
  | .refused _ => none

/-- The output after one evaluation of an instruction, from the reset state. -/
def Sys2Proof.Tests.outputOf (i : Instr) : Option Word :=
  (Sys2Proof.Tests.stateAfter (exec i State.reset)).map State.outBits

open Sys2Proof.Tests

/-! ## Well-formedness: an ill-formed term for each check -/

theorem test_every_instruction_is_well_formed (i : Instr) : i.wellFormed = true := by
  cases i <;> rfl

theorem test_request_of_34_bits_is_ill_formed : requestInRange 0x200000000 = false := by decide

theorem test_largest_request_is_well_formed : requestInRange 0x1FFFFFFFF = true := by decide

theorem test_line_referring_to_itself_is_ill_formed :
    linesWellFormed [.toStandard (.lit 1), .toLowLatency (.result 2)] 0 = false := by decide

theorem test_line_referring_to_line_zero_is_ill_formed :
    linesWellFormed [.toStandard (.lit 1), .toLowLatency (.result 0)] 0 = false := by decide

/-! ## Decoding and encoding: words bit by bit -/

/-- `0seeeeeeemmmmmmmmmmmmmmmmmmmmmmmr` with sign 1, exponent 15, mantissa 0x3FFF80, flag 0. -/
theorem test_decode_toStandard :
    decode params 0b0_1_0001111_01111111111111110000000_0#33 = .toStandard ⟨0x8F7FFF00⟩ := by decide

/-- `1seeeeeeeemmmmmmmmmmmmmmmmmmmmmmm` with sign 0, exponent 142, mantissa 0x7FFF00. -/
theorem test_decode_toLowLatency :
    decode params 0b1_0_10001110_11111111111111100000000#33 = .toLowLatency ⟨0x477FFF00⟩ := by decide

theorem test_encode_toLowLatency : encode params (.toLowLatency ⟨0x8F7FFF00⟩) = 0x18F7FFF00#33 := by decide

theorem test_decode_with_opposite_polarity :
    decode ⟨1, 0⟩ 0x08F7FFF00#33 = .toLowLatency ⟨0x8F7FFF00⟩ := by decide

theorem test_table_word : decodeTableWord 40 0x1477FFF00 = some (.toLowLatency ⟨0x477FFF00⟩) := by decide

theorem test_number_beyond_the_wires_is_rejected_by_name :
    decodeNat params 0x200000000 = .error (.wiresAbsent 0x200000000) := by rfl

/-! ## Fields and packers (95_test_vectors.md sections 2.1 and 2.2) -/

theorem test_ll_fields_of_DEADBEEF : (LL.fromBits 0xDEADBEEF).sign = 1 ∧ (LL.fromBits 0xDEADBEEF).exponent = 94 ∧
    (LL.fromBits 0xDEADBEEF).mantissa = 0x56DF77 ∧ (LL.fromBits 0xDEADBEEF).reservedFlag = 1 := by decide

theorem test_std_fields_of_DEADBEEF : (STD.fromBits 0xDEADBEEF).sign = 1 ∧
    (STD.fromBits 0xDEADBEEF).exponent = 189 ∧ (STD.fromBits 0xDEADBEEF).mantissa = 0x2DBEEF := by decide

theorem test_packSTD_cuts_exponent : (packSTD 1 256 0).bits = 0x80000000 := by decide

theorem test_packSTD_cuts_mantissa : (packSTD 1 127 0x800000).bits = 0xBF800000 := by decide

theorem test_packLL_cuts_exponent : (packLL 0 128 0x200000 0).bits = 0x00400000 := by decide

theorem test_packLL_places_flag : (packLL 1 0 0 1).bits = 0x80000001 := by decide

/-! ## The two instructions (95_test_vectors.md sections 2.3 to 2.6) -/

theorem test_toStandard_DEADBEEF : outputOf (.toStandard ⟨0xDEADBEEF⟩) = some 0x6EADBEEE := by decide

theorem test_toStandard_flag_alone : outputOf (.toStandard ⟨0x00000001⟩) = some 0xBF800000 := by decide

theorem test_toLowLatency_DEADBEEF : outputOf (.toLowLatency ⟨0xDEADBEEF⟩) = some 0x3E2DBEEE := by decide

/-- Rests on decision D7 (log entry 4). -/
theorem test_toLowLatency_exponent_255 : outputOf (.toLowLatency ⟨0xFFFFFFFF⟩) = some 0x007FFFFE := by decide

/-- The column `EXP255_LL_EXPONENT = 127` of program P6, line 4. -/
theorem test_toLowLatency_with_saturating_parameter : convertToLowLatency ⟨0, 127⟩ 0x7FC00000 = 0xFF400000 := by decide

/-! ## The step -/

theorem test_first_step_after_reset : stateAfter (step State.reset) = some State.reset := by decide

/-- The first instant after inputs are driven, before any step (R22, R124). -/
theorem test_output_follows_the_driven_request : (State.reset.present 0x000000001#33).outBits = 0xBF800000 := by decide

theorem test_output_follows_the_selector : ((State.ofInputs 0 0x477FFF00).driveDir 1).outBits = 0x8F7FFF00 := by decide

theorem test_step_runs_the_driven_word :
    stateAfter (step (State.reset.withFetchWord 40 0x18F7FFF00)) =
      some { inBits := 0x8F7FFF00, dir := 1, outBits := 0x007FFF00 } := by decide

/-! ## Sequences -/

/-- A line takes the result of the line before it (the chaining of R48). -/
theorem test_lines_feed_back : runLines [.toLowLatency (.lit 0x3F000000), .toStandard (.result 1)] [] State.reset =
    some [0x80000000, 0x3F800000] := by decide

theorem test_ill_formed_lines_do_not_run : runLines [.toStandard (.result 1)] [] State.reset = none := by decide

/-! ## Witnesses: a concrete term that meets the hypotheses of each statement that has some -/

theorem witness_DecodeOfEncode : (Instr.toLowLatency ⟨0xFFFFFFFF⟩).wellFormed = true := by decide

theorem witness_DrivenTableWordRunsNext : 33 ≤ 33 ∧ 0x1FFFFFFFF < 2 ^ 33 := by decide

theorem witness_StepRunsTheDecodedInstruction :
    decode params (State.reset.dir ++ State.reset.inBits) = .toStandard ⟨0⟩ ∧
      (Instr.toStandard ⟨0⟩).wellFormed = true := by decide

/-- For StateIsItsInputs: two ways to the same inputs. -/
theorem witness_StateIsItsInputs : (State.reset.present 0#33).dir = State.reset.dir ∧
    (State.reset.present 0#33).inBits = State.reset.inBits := by decide

theorem witness_LinesRunOverEarlierResults :
    runLines [.toStandard (.lit 0x80000000)] [] State.reset = some [0x3F800000] ∧
      [Line.toStandard (.lit 0x80000000)][0]? = some (.toStandard (.lit 0x80000000)) := by decide

theorem witness_EvaluationLeavesTheInputs :
    exec (.toStandard ⟨0x80000000⟩) State.reset = .next { inBits := 0x80000000, dir := 0, outBits := 0x3F800000 } ∧
      (State.ofInputs 0 0x80000000).request = encode params (.toStandard ⟨0x80000000⟩) := ⟨rfl, by decide⟩

/-- For StepSettlesTheOutput: a step and an evaluation that complete. -/
theorem witness_StepSettlesTheOutput :
    step { inBits := 0x3F800000, dir := 1, outBits := 0x80000000 } =
        .next { inBits := 0x3F800000, dir := 1, outBits := 0x80000000 } ∧
      exec (.toLowLatency ⟨0x3F800000⟩) State.reset = .next { inBits := 0x3F800000, dir := 1, outBits := 0x80000000 } :=
  ⟨rfl, rfl⟩

/-- For MiddleBitsPassThrough: the lowest and the highest bit of its range, and a step. -/
theorem witness_MiddleBitsPassThrough :
    step { inBits := 0x00400002, dir := 0, outBits := 0xBFC00002 } =
        .next { inBits := 0x00400002, dir := 0, outBits := 0xBFC00002 } ∧
      (1 ≤ 1 ∧ 1 ≤ 22) ∧ 1 ≤ 22 ∧ 22 ≤ 22 := ⟨rfl, by decide⟩

theorem witness_ToStandardExponentIsExact : (LL.fromBits 0x00000001).representation ≠ 0 := by decide

theorem witness_ReservedFlagIsInert : (2 : Word) ≠ 0 ∧ (2 : Word) ^^^ 1#32 ≠ 0 := by decide

/-- For ToLowLatencyExponentTable: each row at the ends of its range. -/
theorem witness_ToLowLatencyExponentTable :
    ((STD.fromBits 0x00000001).representation ≠ 0 ∧ (STD.fromBits 0x00000001).exponent.toNat = 0) ∧
    ((STD.fromBits 0x3F800000).representation ≠ 0 ∧ (STD.fromBits 0x3F800000).exponent.toNat = 127) ∧
    ((STD.fromBits 0x40000000).representation ≠ 0 ∧ (STD.fromBits 0x40000000).exponent.toNat = 128) ∧
    ((STD.fromBits 0x7F000000).representation ≠ 0 ∧ (STD.fromBits 0x7F000000).exponent.toNat = 254) ∧
    ((STD.fromBits 0x7F800000).representation ≠ 0 ∧ (STD.fromBits 0x7F800000).exponent.toNat = 255) := by decide

/-- For ClampBoundary: exponent fields 0, 126 and 127. -/
theorem witness_ClampBoundary : (STD.fromBits 0x00123456).exponent.toNat = 0 ∧
    (STD.fromBits 0x3F123456).exponent.toNat = 126 ∧ (STD.fromBits 0x3F800000).exponent.toNat = 127 := by decide

theorem witness_SignInversion : (0x80000000 : Word) ≠ 0 := by decide

theorem witness_MantissaTruncation : (LL.fromBits 0x00800000).representation ≠ 0 ∧
    (toLowLatency params (STD.fromBits 0x40000001)).representation ≠ 0 := by decide
end

section
/-! SUPPORT. A decoded request encodes back, so a step leaves the ports alone; and a run of requests answers each one
from its own bits. From these follow the two statements about the block's state (10_state.md). -/

namespace Sys2Proof

/-- A request is its selector over its operand (R40). -/
@[simp] theorem requestDir_append_requestBits (r : Request) : requestDir r ++ requestBits r = r := by
  have hr := r.isLt
  apply BitVec.eq_of_toNat_eq
  simp only [requestDir, requestBits, append_toNat, BitVec.extractLsb'_toNat, Nat.shiftRight_eq_div_pow]
  omega

/-- One bit has two values: what is not `d` is its complement. -/
theorem not_eq_of_ne_bit : ∀ {c d : BitVec 1}, c ≠ d → ~~~ d = c := by decide

/-- The decoder loses nothing of a request, on either row of the opcode table (R42). -/
@[simp] theorem encode_decode (p : Params) (r : Request) : encode p (decode p r) = r := by
  by_cases h : requestDir r = p.dirToStandard
  · simp [decode, encode, ← h]
  · simp [decode, encode, h, not_eq_of_ne_bit h]

namespace Machine

/-- A step evaluates the request on the wires, which is there already: it leaves the state as it is (log entry 1). -/
@[simp] theorem step_eq (s : State) : step s = .next s := by
  have hexec : step s = .next (s.present (encode params (decode params s.request))) := exec_eq _ s
  rw [hexec, encode_decode, State.present_own_request]

/-- What the block gives for a request, from the request's bits alone (R96). -/
def requestResult (r : Request) : Word := convert params (requestDir r) (requestBits r)

theorem State.present_outBits_eq_requestResult (s : State) (r : Request) :
    (s.present r).outBits = requestResult r := rfl

/-- A run answers every request by its own result: the state it starts from, and what it evaluates in between, do not
come into it (R18). -/
theorem runRequests_eq_map (rs : List Request) (s : State) : runRequests rs s = some (rs.map requestResult) := by
  induction rs generalizing s with
  | nil => rfl
  | cons r rs ih =>
    simp only [runRequests, step_eq, ih, State.present_outBits_eq_requestResult, Option.map_some, List.map_cons]

/-- The last output of a run is the last request's result, after any earlier requests (R18). -/
theorem runRequests_getLast? (before : List Request) (r : Request) (s : State) :
    (runRequests (before ++ [r]) s).bind List.getLast? = some (requestResult r) := by
  simp [runRequests_eq_map]

/-- Settles O10: the field `settled` gives the function, and the step's request is the one already on the wires. -/
theorem stateIsItsInputs : Obligations.StateIsItsInputs :=
  ⟨fun _ _ => State.eq_of_inputs, ⟨convert params, State.settled⟩, step_eq⟩

/-- Settles O13: both runs end with the result of the last request's own bits. -/
theorem historyDoesNotReachTheOutput : Obligations.HistoryDoesNotReachTheOutput :=
  fun before₁ before₂ s₁ s₂ r =>
    ⟨requestResult r, runRequests_getLast? before₁ r s₁, runRequests_getLast? before₂ r s₂⟩

end Machine
end Sys2Proof
end

section
/-! SUPPORT. The request format and the two field tables (30_encoding.md): every request is accepted and has one result,
the reserved flag reaches nothing but the zero test, and the fields partition the word. -/

namespace Sys2Proof

/-! ## Every request has exactly one result (R46) -/

/-- A request fits the wires, so the decoder rejects none (R40, R46). -/
theorem decodeNat_toNat (p : Params) (r : Request) : decodeNat p r.toNat = .ok (decode p r) := by
  have hfits : requestInRange r.toNat = true := decide_eq_true r.isLt
  rw [decodeNat, if_pos hfits, BitVec.ofNat_toNat, BitVec.setWidth_eq]

namespace Machine

/-- Settles O12: a step leaves the driven ports alone (`step_eq`), so they show the request and its own result; any
pattern that every state leads to is the one that the reset state leads to. -/
theorem everyRequestHasExactlyOneResult : Obligations.EveryRequestHasExactlyOneResult := by
  intro r
  refine ⟨⟨decode params r, decodeNat_toNat params r⟩, requestResult r, ?_, ?_⟩
  · intro s
    exact ⟨s.present r, step_eq _, State.present_request s r, State.present_outBits_eq_requestResult s r⟩
  · intro out hout
    obtain ⟨t, hstep, -, rfl⟩ := hout State.reset
    obtain rfl := Host.Outcome.next.inj ((step_eq _).symm.trans hstep)
    exact State.present_outBits_eq_requestResult State.reset r

/-! ## The reserved flag (R45) -/

/-- Non-zero operands that agree in bits 31 to 1 have one result: `toStandard` reads no other bit of them (R73). -/
theorem toStandard_eq_of_div_two_eq {x y : LL} (hx : x.bits ≠ 0) (hy : y.bits ≠ 0)
    (h : x.bits.toNat / 2 = y.bits.toNat / 2) : toStandard x = toStandard y := by
  apply STD.eq_of_bits
  apply BitVec.eq_of_toNat_eq
  rw [toStandard_toNat x hx, toStandard_toNat y hy]
  omega

/-- Flipping bit 0 leaves bits 31 to 1. -/
theorem xor_one_div_two (v : Word) : (v ^^^ 1#32).toNat / 2 = v.toNat / 2 := by
  rw [BitVec.toNat_xor, Nat.xor_div_two]
  exact Nat.xor_zero _

/-- `toLowLatency` never sets the reserved flag (R45 (c), R86). -/
@[simp] theorem toLowLatency_reservedFlag (p : Params) (std : STD) : (toLowLatency p std).reservedFlag = 0 := by
  by_cases h : std.bits = 0
  · rw [toLowLatency_of_zero p std h]
    rfl
  · have hz : ¬ std.representation = 0x00000000 := h
    rw [toLowLatency, if_neg hz, packLL_reservedFlag]

/-- Settles O25: a flip of bit 0 leaves the bits that `toStandard` reads, and 0x00000001 gives 0xBF800000, not zero. -/
theorem reservedFlagIsInert : Obligations.ReservedFlagIsInert :=
  ⟨fun _ => ⟨rfl, rfl⟩,
    fun v hv hflip => congrArg STD.representation (toStandard_eq_of_div_two_eq hflip hv (xor_one_div_two v)),
    by decide, toLowLatency_reservedFlag⟩

end Machine

/-! ## The fields of each format (R36) -/

/-- A slice of a word is the word under the slice's mask, right-justified. -/
theorem setWidth_extractLsb'_eq_and_ushiftRight (w m : Word) (lo len : Nat) (hfit : lo + len ≤ 32)
    (hm : m.toNat = 2 ^ (lo + len) - 2 ^ lo) : (w.extractLsb' lo len).setWidth 32 = (w &&& m) >>> lo := by
  have hlen : 2 ^ len ≤ 2 ^ 32 := Nat.pow_le_pow_right (by decide) (by omega)
  have hslice : w.toNat / 2 ^ lo % 2 ^ len < 2 ^ len := Nat.mod_lt _ (Nat.two_pow_pos len)
  apply BitVec.eq_of_toNat_eq
  rw [BitVec.toNat_setWidth, BitVec.extractLsb'_toNat, BitVec.toNat_ushiftRight,
    and_slice_toNat w m lo (lo + len) (Nat.le_add_right lo len) hm, Nat.add_sub_cancel_left,
    Nat.shiftRight_eq_div_pow, Nat.shiftRight_eq_div_pow, Nat.mul_div_cancel _ (Nat.two_pow_pos lo),
    Nat.mod_eq_of_lt (hslice.trans_le hlen)]

/-- The low-latency accessors return the bits under the masks of R34, right-justified. -/
theorem LL.accessors_eq_masks (x : LL) :
    x.sign.setWidth 32 = (x.bits &&& 0x80000000#32) >>> 31 ∧
    x.exponent.setWidth 32 = (x.bits &&& 0x7F000000#32) >>> 24 ∧
    x.mantissa.setWidth 32 = (x.bits &&& 0x00FFFFFE#32) >>> 1 ∧
    x.reservedFlag.setWidth 32 = x.bits &&& 0x00000001#32 :=
  ⟨setWidth_extractLsb'_eq_and_ushiftRight _ _ 31 1 (by decide) (by decide),
    setWidth_extractLsb'_eq_and_ushiftRight _ _ 24 7 (by decide) (by decide),
    setWidth_extractLsb'_eq_and_ushiftRight _ _ 1 23 (by decide) (by decide),
    setWidth_extractLsb'_eq_and_ushiftRight _ _ 0 1 (by decide) (by decide)⟩

/-- The standard accessors return the bits under the masks of R35, right-justified. -/
theorem STD.accessors_eq_masks (x : STD) :
    x.sign.setWidth 32 = (x.bits &&& 0x80000000#32) >>> 31 ∧
    x.exponent.setWidth 32 = (x.bits &&& 0x7F800000#32) >>> 23 ∧
    x.mantissa.setWidth 32 = x.bits &&& 0x007FFFFF#32 :=
  ⟨setWidth_extractLsb'_eq_and_ushiftRight _ _ 31 1 (by decide) (by decide),
    setWidth_extractLsb'_eq_and_ushiftRight _ _ 23 8 (by decide) (by decide),
    setWidth_extractLsb'_eq_and_ushiftRight _ _ 0 23 (by decide) (by decide)⟩

namespace Machine

/-- Packing a low-latency value's own fields gives the value (R66). -/
@[simp] theorem packLL_fields (x : LL) :
    packLL x.sign x.exponent.toNat x.mantissa.toNat x.reservedFlag = x := by
  have hx := x.bits.isLt
  apply LL.eq_of_bits
  apply BitVec.eq_of_toNat_eq
  rw [packLL_toNat, LL.sign_toNat, LL.exponent_toNat, LL.mantissa_toNat, LL.reservedFlag_toNat]
  omega

/-- Packing a standard value's own fields gives the value (R66). -/
@[simp] theorem packSTD_fields (x : STD) : packSTD x.sign x.exponent.toNat x.mantissa.toNat = x := by
  have hx := x.bits.isLt
  apply STD.eq_of_bits
  apply BitVec.eq_of_toNat_eq
  rw [packSTD_toNat, STD.sign_toNat, STD.exponent_toNat, STD.mantissa_toNat]
  omega

/-- Settles O43: the masks by computation, the accessors as slices under their masks, and the packers' laws, where a
field's own value is not cut. -/
theorem fieldsPartitionThePattern : Obligations.FieldsPartitionThePattern := by
  have htrunc {n : Nat} (x : BitVec n) : trunc n x.toNat = x := (BitVec.ofNat_toNat n x).trans (BitVec.setWidth_eq x)
  refine ⟨by decide, by decide, LL.accessors_eq_masks, by decide, by decide, STD.accessors_eq_masks,
    packLL_fields, packSTD_fields, fun s e m r => ?_, fun s e m => ?_⟩
  · exact ⟨packLL_sign .., (packLL_exponent ..).trans (htrunc e), (packLL_mantissa ..).trans (htrunc m),
      packLL_reservedFlag ..⟩
  · exact ⟨packSTD_sign .., (packSTD_exponent ..).trans (htrunc e), (packSTD_mantissa ..).trans (htrunc m)⟩

end Machine
end Sys2Proof
end

section
/-! SUPPORT. The constructors, accessors and packers (40_field_access.md): what each accessor reads of the word, and the
packers as the or of the shifted fields. -/

namespace Sys2Proof

/-! ## Slices of a word, and cuts to a field's width -/

/-- A one-bit slice is the bit it stands on. -/
theorem extractLsb'_one_eq_ofBool (w : Word) (i : Nat) : w.extractLsb' i 1 = BitVec.ofBool (w.getLsbD i) := by
  have hbit : ∀ b : BitVec 1, b = BitVec.ofBool (b == 1#1) := by decide
  rw [BitVec.getLsbD_eq_extractLsb']
  exact hbit _

/-- A slice read as a number is the word shifted down to it, modulo the slice's width. -/
theorem extractLsb'_toNat_eq_ushiftRight_mod (w : Word) (lo len : Nat) :
    (w.extractLsb' lo len).toNat = (w >>> lo).toNat % 2 ^ len := by
  rw [BitVec.extractLsb'_toNat, BitVec.toNat_ushiftRight]

/-- The number that `trunc n` leaves (R9). -/
theorem toNat_of_eq_trunc {n v : Nat} {x : BitVec n} (h : x = trunc n v) : x.toNat = v % 2 ^ n := by
  rw [h, BitVec.toNat_ofNat]

/-- A field's bits at the bottom of a word (R9, R64). -/
theorem setWidth_trunc (n v : Nat) : (trunc n v).setWidth 32 = BitVec.ofNat 32 (v % 2 ^ n) := by
  rw [← BitVec.ofNat_toNat, BitVec.toNat_ofNat]

namespace Machine

/-! ## The constructors and the accessors (R49 to R62) -/

/-- Settles O41: the zeros' fields by computation; `fromBits` and `representation` wrap and unwrap the pattern. -/
theorem constructorsAndReadBack : Obligations.ConstructorsAndReadBack :=
  ⟨by decide, by decide, fun _ => ⟨rfl, rfl⟩, fun _ => rfl, fun _ => rfl⟩

/-- Settles O42: every accessor is a slice, read as a bit or as a remainder. -/
theorem accessorsReadTheirSlices : Obligations.AccessorsReadTheirSlices := fun w =>
  ⟨extractLsb'_one_eq_ofBool w 31, extractLsb'_toNat_eq_ushiftRight_mod w 24 7,
    extractLsb'_toNat_eq_ushiftRight_mod w 1 23, extractLsb'_one_eq_ofBool w 0,
    extractLsb'_one_eq_ofBool w 31, extractLsb'_toNat_eq_ushiftRight_mod w 23 8,
    STD.mantissa_toNat (STD.fromBits w)⟩

/-! ## The packers (R64 to R66) -/

/-- The packed standard pattern is its fields, one after the other (R64). -/
theorem packSTD_representation (s : BitVec 1) (e m : Nat) :
    (packSTD s e m).representation = s ++ trunc 8 e ++ trunc 23 m := rfl

/-- The packed standard pattern is the or of its fields, each shifted to its place (R64). -/
theorem packSTD_representation_eq_or (s : BitVec 1) (e m : Nat) :
    (packSTD s e m).representation =
      (s.setWidth 32 <<< 31) ||| (BitVec.ofNat 32 (e % 2 ^ 8) <<< 23) ||| BitVec.ofNat 32 (m % 2 ^ 23) :=
  calc (packSTD s e m).representation
    _ = (s ++ trunc 8 e ++ trunc 23 m).setWidth 32 := (BitVec.setWidth_eq _).symm
    _ = (s.setWidth 32 <<< 31) ||| ((trunc 8 e).setWidth 32 <<< 23) ||| (trunc 23 m).setWidth 32 :=
        BitVec.setWidth_append_append_eq_shiftLeft_setWidth_or
    _ = _ := by rw [setWidth_trunc, setWidth_trunc]

/-- Settles O44: the packer's definition, and its concatenation as an or. -/
theorem packStandardCutsAndPlaces : Obligations.PackStandardCutsAndPlaces := fun s e m =>
  ⟨packSTD_representation s e m, packSTD_representation_eq_or s e m⟩

/-- Settles O46: the packers' laws for a value's own fields, and the accessors' for a packed pattern. -/
theorem accessorsInvertPackers : Obligations.AccessorsInvertPackers :=
  ⟨fun w => ⟨packLL_fields (LL.fromBits w), packSTD_fields (STD.fromBits w)⟩,
    fun s e m => ⟨packSTD_sign s e m, toNat_of_eq_trunc (packSTD_exponent s e m),
      toNat_of_eq_trunc (packSTD_mantissa s e m)⟩,
    fun s e m r => ⟨packLL_sign s e m r, toNat_of_eq_trunc (packLL_exponent s e m r),
      toNat_of_eq_trunc (packLL_mantissa s e m r), packLL_reservedFlag s e m r⟩⟩

end Machine
end Sys2Proof
end

section
/-! SUPPORT. The operation `toStandard` (41_to_standard.md): what every evaluation leaves on the three ports, and the
result of `toStandard` by its fields. -/

namespace Sys2Proof.Machine

/-- Every instruction completes, from any state: the two halves of its request are on the inputs (log entry 1) and its
result is on the output (R67, R80). -/
theorem exec_completes (i : Instr) (s : State) : ∃ t, exec i s = .next t ∧
    t.inBits = requestBits (encode params i) ∧ t.dir = requestDir (encode params i) ∧ t.outBits = resultOf i :=
  ⟨s.present (encode params i), exec_eq i s, rfl, rfl, (resultOf_eq i).symm⟩

/-- The result of `toStandard`: zero for the zero pattern (R68), the packed fields of the generic rule otherwise (R72). -/
theorem toStandard_representation (low : LL) : (toStandard low).representation =
    if low.bits = 0 then 0
    else standardSign low ++ trunc 8 (standardExponent low) ++ trunc 23 (standardMantissa low) := by
  by_cases h : low.bits = 0
  · rw [if_pos h, toStandard_of_zero low h]
    rfl
  · have hz : ¬ low.representation = 0x00000000 := h
    rw [if_neg h, toStandard, if_neg hz, packSTD_representation]

/-- Settles O20: `exec_completes` gives the ports, and the packed fields are those of the rule, the mantissa's shift by one
being its double (R71). -/
theorem toStandardResult : Obligations.ToStandardResult := by
  intro low s
  obtain ⟨t, hexec, hin, hdir, hout⟩ := exec_completes (.toStandard low) s
  have hmant : standardMantissa low = low.mantissa.toNat * 2 := Nat.shiftLeft_eq _ 1
  refine ⟨t, hexec, hin.trans (requestBits_append _ _), hdir.trans (requestDir_append _ _), ?_⟩
  rw [hout, resultOf, toStandard_representation, hmant]
  rfl

/-- Settles O16: the state after is the ports carrying the instruction's request (`exec_next`). A state that carried it
before has the same two halves, and `exec_eq` answers every other state alike. -/
theorem evaluationLeavesTheInputs : Obligations.EvaluationLeavesTheInputs := by
  intro i s t s' hexec
  obtain ⟨rfl, -⟩ := exec_next hexec
  refine ⟨State.present_request s _, fun hs => ?_, exec_eq i s'⟩
  rw [← hs, State.present_own_request]
  exact ⟨rfl, rfl⟩

end Sys2Proof.Machine
end

section
/-! SUPPORT. The operation `toLowLatency` (42_to_low_latency.md): its exponent with saturation written as a maximum, and its
result by its fields. -/

namespace Sys2Proof.Machine

/-- The saturating difference is the difference with the larger of the two (R83). -/
theorem saturatingUnbias_eq_max_sub (e : Nat) : saturatingUnbias e = max e 127 - 127 := by
  by_cases h : e < bias
  · have hle : e ≤ 127 := Nat.le_of_lt h
    rw [saturatingUnbias, if_pos h, max_eq_right hle, Nat.sub_self]
    rfl
  · have hle : 127 ≤ e := Nat.le_of_not_lt h
    rw [saturatingUnbias, if_neg h, max_eq_left hle]
    rfl

/-- A field's own value is not cut (R9). -/
theorem trunc_toNat {n : Nat} (x : BitVec n) : trunc n x.toNat = x :=
  (BitVec.ofNat_toNat n x).trans (BitVec.setWidth_eq x)

/-- The exponent field the packer places: the parameter for field 255 (R84), the saturating difference otherwise (R83). -/
theorem trunc_lowLatencyExponent (p : Params) (std : STD) : trunc 7 (lowLatencyExponent p std) =
    if std.exponent = 255#8 then p.exp255LLExponent else trunc 7 (max std.exponent.toNat 127 - 127) := by
  by_cases h : std.exponent = 255#8
  · have h255 : std.exponent.toNat = exp255 := congrArg BitVec.toNat h
    rw [if_pos h, lowLatencyExponent, if_pos h255, trunc_toNat]
  · have h255 : ¬ std.exponent.toNat = exp255 := fun he => h (BitVec.eq_of_toNat_eq he)
    rw [if_neg h, lowLatencyExponent, if_neg h255, saturatingUnbias_eq_max_sub]

/-- The packed low-latency pattern is its fields, one after the other (R65). -/
theorem packLL_representation (s : BitVec 1) (e m : Nat) (r : BitVec 1) :
    (packLL s e m r).representation = s ++ trunc 7 e ++ trunc 23 m ++ r := rfl

/-- The result of `toLowLatency`: zero for the zero pattern (R81), the packed fields of the generic rule otherwise, with
reserved flag 0 (R86, R87). -/
theorem toLowLatency_representation (p : Params) (std : STD) : (toLowLatency p std).representation =
    if std.bits = 0 then 0
    else lowLatencySign std ++ trunc 7 (lowLatencyExponent p std) ++ trunc 23 (lowLatencyMantissa std) ++ 0#1 := by
  by_cases h : std.bits = 0
  · rw [if_pos h, toLowLatency_of_zero p std h]
    rfl
  · have hz : ¬ std.representation = 0x00000000 := h
    rw [if_neg h, toLowLatency, if_neg hz, packLL_representation]
    rfl

/-- Settles O26: `exec_completes` gives the ports, and the packed fields are those of the rule, the mantissa's shift by one
being its half (R85). -/
theorem toLowLatencyResult : Obligations.ToLowLatencyResult := by
  intro std s
  obtain ⟨t, hexec, hin, hdir, hout⟩ := exec_completes (.toLowLatency std) s
  have hmant : lowLatencyMantissa std = std.mantissa.toNat / 2 := Nat.shiftRight_eq_div_pow _ 1
  refine ⟨t, hexec, hin.trans (requestBits_append _ _), hdir.trans (requestDir_append _ _), ?_⟩
  rw [hout, resultOf, toLowLatency_representation, trunc_lowLatencyExponent, hmant]
  rfl

end Sys2Proof.Machine
end

section
/-! SUPPORT. Properties of both operations (43_top_and_properties.md): the fields of each operation's result, and from them
the clamp, the complemented sign, and what a round trip keeps of the exponent and of the mantissa. -/

namespace Sys2Proof.Machine

/-! ## The fields of the result of `toStandard` -/

/-- The generic rule of `toStandard` (R72). -/
theorem toStandard_of_ne_zero (low : LL) (h : low.bits ≠ 0) :
    toStandard low = packSTD (standardSign low) (standardExponent low) (standardMantissa low) := if_neg h

/-- A non-zero operand's sign is complemented (R69). -/
theorem toStandard_sign (low : LL) (h : low.bits ≠ 0) : (toStandard low).sign = ~~~ low.sign := by
  rw [toStandard_of_ne_zero low h, packSTD_sign, standardSign]

/-- A non-zero operand's exponent is raised by the bias, and the 8-bit field holds the sum (R70). -/
theorem toStandard_exponent_toNat (low : LL) (h : low.bits ≠ 0) :
    (toStandard low).exponent.toNat = low.exponent.toNat + 127 := by
  have hsum : low.exponent.toNat + 127 < 2 ^ 8 :=
    (Nat.add_lt_add_right low.exponent.isLt 127).trans (by decide)
  rw [toStandard_of_ne_zero low h, packSTD_exponent, BitVec.toNat_ofNat]
  exact Nat.mod_eq_of_lt hsum

/-- The mantissa is shifted left within its field (R71); zero's mantissa is 0 either way. -/
theorem toStandard_mantissa (low : LL) : (toStandard low).mantissa = low.mantissa <<< 1 := by
  by_cases h : low.bits = 0
  · obtain rfl : low = LL.zero := LL.eq_of_bits h
    rfl
  · rw [toStandard_of_ne_zero low h, packSTD_mantissa]
    exact BitVec.eq_of_toNat_eq rfl

/-! ## The fields of the result of `toLowLatency` -/

/-- The generic rule of `toLowLatency` (R87). -/
theorem toLowLatency_of_ne_zero (p : Params) (std : STD) (h : std.bits ≠ 0) :
    toLowLatency p std = packLL (lowLatencySign std) (lowLatencyExponent p std) (lowLatencyMantissa std) 0 := if_neg h

/-- A non-zero operand's sign is complemented (R82). -/
theorem toLowLatency_sign (p : Params) (std : STD) (h : std.bits ≠ 0) :
    (toLowLatency p std).sign = ~~~ std.sign := by
  rw [toLowLatency_of_ne_zero p std h, packLL_sign, lowLatencySign]

/-- The exponent of every operand, zero included, is the one of the generic rule (R83, R84): the saturating difference,
or the parameter for field 255. -/
theorem toLowLatency_exponent (p : Params) (std : STD) : (toLowLatency p std).exponent =
    if std.exponent = 255#8 then p.exp255LLExponent else trunc 7 (max std.exponent.toNat 127 - 127) := by
  by_cases h : std.bits = 0
  · obtain rfl : std = STD.zero := STD.eq_of_bits h
    have hne : STD.zero.exponent ≠ 255#8 := by decide
    rw [toLowLatency_of_zero p STD.zero h, if_neg hne]
    rfl
  · rw [toLowLatency_of_ne_zero p std h, packLL_exponent, trunc_lowLatencyExponent]

/-- Below exponent field 255 the parameter plays no part (R83). -/
theorem toLowLatency_exponent_of_lt_255 (p : Params) (std : STD) (h : std.exponent.toNat < 255) :
    (toLowLatency p std).exponent = trunc 7 (max std.exponent.toNat 127 - 127) := by
  have hne : std.exponent ≠ 255#8 := fun he => Nat.ne_of_lt h (congrArg BitVec.toNat he)
  rw [toLowLatency_exponent, if_neg hne]

/-- Up to the bias the exponent saturates (R83, R101). -/
theorem toLowLatency_exponent_of_le_bias (p : Params) (std : STD) (h : std.exponent.toNat ≤ 127) :
    (toLowLatency p std).exponent = 0 := by
  rw [toLowLatency_exponent_of_lt_255 p std (h.trans_lt (by decide)), max_eq_right h]
  rfl

/-- The mantissa is shifted right within its field (R85); zero's mantissa is 0 either way. -/
theorem toLowLatency_mantissa (p : Params) (std : STD) : (toLowLatency p std).mantissa = std.mantissa >>> 1 := by
  by_cases h : std.bits = 0
  · obtain rfl : std = STD.zero := STD.eq_of_bits h
    rw [toLowLatency_of_zero p STD.zero h]
    rfl
  · rw [toLowLatency_of_ne_zero p std h, packLL_mantissa, lowLatencyMantissa]
    exact trunc_toNat (std.mantissa >>> 1)

/-- The zero pattern converts to the zero pattern (R81, R95). -/
theorem convertToLowLatency_zero (p : Params) : convertToLowLatency p 0 = 0 :=
  congrArg LL.representation (toLowLatency_of_zero p STD.zero rfl)

/-- The parameters reach no operand whose exponent field is other than 255 (R7, R84). -/
theorem convertToLowLatency_eq_of_exponent_ne_255 (p q : Params) {w : Word} (h : (STD.fromBits w).exponent ≠ 255#8) :
    convertToLowLatency p w = convertToLowLatency q w := by
  have hexp : ¬ (STD.fromBits w).exponent.toNat = exp255 := fun he => h (BitVec.eq_of_toNat_eq he)
  simp only [convertToLowLatency, toLowLatency, lowLatencyExponent, if_neg hexp]

/-- An example word of the rules, its exponent field other than 255, is computed with the machine's parameters. -/
theorem convertToLowLatency_of_params (p : Params) {w v : Word} (h : (STD.fromBits w).exponent ≠ 255#8)
    (hw : convertToLowLatency params w = v) : convertToLowLatency p w = v :=
  (convertToLowLatency_eq_of_exponent_ne_255 p params h).trans hw

/-! ## The clamp (R101) -/

/-- Settles O32: both ranges are at most the bias, and no example word has exponent field 255. -/
theorem clampBoundary : Obligations.ClampBoundary := by
  intro p
  refine ⟨fun std h => toLowLatency_exponent_of_le_bias p std (Nat.le_of_lt h),
    fun std h => toLowLatency_exponent_of_le_bias p std (Nat.le_of_eq h), ?_, ?_, ?_, ?_⟩
  all_goals exact convertToLowLatency_of_params p (by decide) (by decide)

/-! ## The sign (R99) -/

/-- Words whose sign fields are complements differ in bit 31. -/
theorem getLsbD_31_of_sign_eq_not {v w : Word} (h : v.extractLsb' 31 1 = ~~~ (w.extractLsb' 31 1)) :
    v.getLsbD 31 = !w.getLsbD 31 := by
  have hbit : ∀ a b : Bool, BitVec.ofBool a = ~~~ (BitVec.ofBool b) → a = !b := by decide
  rw [extractLsb'_one_eq_ofBool, extractLsb'_one_eq_ofBool] at h
  exact hbit _ _ h

/-- Settles O34: each operation complements the sign field of a non-zero operand; zero is computed. -/
theorem signInversion : Obligations.SignInversion := fun p =>
  ⟨fun w hw => ⟨getLsbD_31_of_sign_eq_not (toStandard_sign (LL.fromBits w) hw),
      getLsbD_31_of_sign_eq_not (toLowLatency_sign p (STD.fromBits w) hw)⟩,
    by decide, congrArg (BitVec.getLsbD · 31) (convertToLowLatency_zero p)⟩

/-! ## The exponent's round trip (R100) -/

/-- Settles O35: the raised exponent is at least the bias and below 255, so lowering it neither clamps nor meets the
parameter; zero comes back as zero. -/
theorem biasRoundTrip : Obligations.BiasRoundTrip := by
  intro p x
  by_cases hx : x.bits = 0
  · obtain rfl : x = LL.zero := LL.eq_of_bits hx
    rw [toStandard_of_zero LL.zero hx, toLowLatency_of_zero p STD.zero rfl]
  · have hraised : (toStandard x).exponent.toNat = x.exponent.toNat + 127 := toStandard_exponent_toNat x hx
    have hlt : (toStandard x).exponent.toNat < 255 := by
      rw [hraised]
      exact Nat.add_lt_add_right x.exponent.isLt 127
    rw [toLowLatency_exponent_of_lt_255 p _ hlt, hraised, max_eq_left (Nat.le_add_left 127 _), Nat.add_sub_cancel,
      trunc_toNat]

/-! ## The mantissa's round trips (R102) -/

/-- From the low-latency side the top mantissa bit is lost. -/
theorem toLowLatency_toStandard_mantissa_toNat (p : Params) (x : LL) :
    (toLowLatency p (toStandard x)).mantissa.toNat = x.mantissa.toNat % 2 ^ 22 := by
  rw [toLowLatency_mantissa, toStandard_mantissa, BitVec.toNat_ushiftRight, BitVec.toNat_shiftLeft,
    Nat.shiftLeft_eq, Nat.shiftRight_eq_div_pow]
  omega

/-- From the standard side the low mantissa bit is lost. -/
theorem toStandard_toLowLatency_mantissa (p : Params) (y : STD) :
    (toStandard (toLowLatency p y)).mantissa = y.mantissa &&& 0x7FFFFE#23 := by
  rw [toStandard_mantissa, toLowLatency_mantissa, BitVec.shiftLeft_ushiftRight]
  rfl

/-- Settles O36: the two trips as opposite shifts within the mantissa field, which also hold for the operands that convert
to zero; the example words are computed. -/
theorem mantissaTruncation : Obligations.MantissaTruncation := fun p =>
  ⟨fun x _ => toLowLatency_toStandard_mantissa_toNat p x, fun y _ => toStandard_toLowLatency_mantissa p y,
    by decide, convertToLowLatency_of_params p (by decide) (by decide), by decide,
    BitVec.eq_of_toNat_eq (toLowLatency_toStandard_mantissa_toNat p _), by decide,
    convertToLowLatency_of_params p (by decide) (by decide), by decide⟩

/-! ## The zero operand (R98) -/

/-- Settles O33: each operation's general result, at the operand for which step 1 answers (R68, R81). -/
theorem zeroFixpoint : Obligations.ZeroFixpoint := by
  intro s
  obtain ⟨t, hexec, hin, hdir, hout⟩ := toStandardResult LL.zero s
  obtain ⟨t', hexec', hin', hdir', hout'⟩ := toLowLatencyResult STD.zero s
  exact ⟨⟨t, hexec, hin, hdir, hout.trans (if_pos LL.zero_bits)⟩,
    ⟨t', hexec', hin', hdir', hout'.trans (if_pos STD.zero_bits)⟩⟩

end Sys2Proof.Machine
end

section
/-! SUPPORT. Reset and hazards (70_reset_and_hazards.md): the two input ports are driven independently, and a sequence of
requests carries nothing from one to the next. -/

namespace Sys2Proof.Machine

/-- Each drive sets its own port and keeps the other, and a state is its inputs. -/
theorem State.driveInBits_driveDir_comm (s : State) (d : BitVec 1) (w : Word) :
    (s.driveDir d).driveInBits w = (s.driveInBits w).driveDir d :=
  State.eq_of_inputs (by simp) (by simp)

/-- Settles O14: a run answers each request from that request's own halves, whatever stands around it; and either order
of driving reaches the same state before the step. -/
theorem requestsInAnyOrderGiveConvert : Obligations.RequestsInAnyOrderGiveConvert :=
  ⟨runRequests_eq_map, fun s d w => congrArg step (State.driveInBits_driveDir_comm s d w)⟩

end Sys2Proof.Machine
end

section
/-! SUPPORT. The encoding (30_encoding.md): a request is a selector over an operand, so the decoder, the encoder and the
masks of the opcode table all speak of the selector alone. -/

namespace Sys2Proof

/-- A request is a selector over an operand (R40). -/
theorem exists_append_eq (r : Request) : ∃ (d : BitVec 1) (w : Word), r = d ++ w :=
  ⟨requestDir r, requestBits r, (requestDir_append_requestBits r).symm⟩

/-- The decoder on a request given by its two halves (R42). -/
theorem decode_append (p : Params) (d : BitVec 1) (w : Word) :
    decode p (d ++ w) = if d = p.dirToStandard then .toStandard ⟨w⟩ else .toLowLatency ⟨w⟩ := by
  rw [decode, Machine.requestDir_append, Machine.requestBits_append]

/-- The two rows have different selector values (R41). -/
theorem not_bit_ne : ∀ d : BitVec 1, ~~~ d ≠ d := by decide

/-- Either row's request decodes to that row's instruction (R42). -/
theorem decode_encode (p : Params) (i : Instr) : decode p (encode p i) = i := by
  cases i with
  | toStandard low => rw [encode, decode_append, if_pos rfl]
  | toLowLatency std => rw [encode, decode_append, if_neg (not_bit_ne _)]

/-- The opcode table's mask keeps the selector and clears the operand (R42). -/
theorem append_and_selectorMask (d : BitVec 1) (w : Word) : (d ++ w) &&& 0x100000000#33 = d ++ 0#32 :=
  calc (d ++ w) &&& 0x100000000#33
    _ = (d ++ w) &&& (1#1 ++ 0#32) := rfl
    _ = (d &&& 1#1) ++ (w &&& 0#32) := BitVec.and_append
    _ = d ++ 0#32 := by rw [BitVec.and_zero, show d &&& 1#1 = d from BitVec.and_allOnes]

/-- Flipping bit 32 complements the selector and keeps the operand (R40). -/
theorem append_xor_selectorMask (d : BitVec 1) (w : Word) : (d ++ w) ^^^ 0x100000000#33 = ~~~ d ++ w :=
  calc (d ++ w) ^^^ 0x100000000#33
    _ = (d ++ w) ^^^ (1#1 ++ 0#32) := rfl
    _ = (d ^^^ 1#1) ++ (w ^^^ 0#32) := BitVec.xor_append
    _ = ~~~ d ++ w := by rw [BitVec.xor_zero, show d ^^^ 1#1 = ~~~ d from BitVec.xor_allOnes]

/-- The number decoded is accepted exactly when it fits the wires, and is then decoded as a request (log entry 10). -/
theorem decodeTableWord_eq (nbits w : Nat) : decodeTableWord nbits w =
    if w % 2 ^ nbits < 2 ^ 33 then some (decode Machine.params (BitVec.ofNat 33 (w % 2 ^ nbits))) else none := by
  by_cases h : w % 2 ^ nbits < 2 ^ 33
  · have hfits : requestInRange (w % 2 ^ nbits) = true := decide_eq_true h
    rw [decodeTableWord, decodeNat, if_pos hfits, if_pos h]
  · have hwide : ¬ requestInRange (w % 2 ^ nbits) = true := fun hr => h (of_decide_eq_true hr)
    rw [decodeTableWord, decodeNat, if_neg hwide, if_neg h]

namespace Machine

/-- What an instruction gives is what the block gives for the request it was decoded from (R96). -/
theorem resultOf_decode (r : Request) : resultOf (decode params r) = requestResult r := by
  rw [resultOf_eq, encode_decode, requestResult]

/-- `toLowLatency` does not read the selector's value (R41). -/
theorem convertToLowLatency_of_selectors (d d' : BitVec 1) (e : BitVec 7) (w : Word) :
    convertToLowLatency ⟨d, e⟩ w = convertToLowLatency ⟨d', e⟩ w := rfl

/-- Settles O2: every instruction, well formed or not, comes back from its request. -/
theorem decodeOfEncode : Obligations.DecodeOfEncode := fun p i _ => decode_encode p i

/-- Settles O3: the encoder restores the selector that the decoder read. -/
theorem encodeOfDecode : Obligations.EncodeOfDecode := encode_decode

/-- Settles O4: the masked request is its selector alone, so the two rows are the selector's two values. -/
theorem tableRowsPartitionRequests : Obligations.TableRowsPartitionRequests := by
  intro r
  obtain ⟨d, w, rfl⟩ := exists_append_eq r
  rw [append_and_selectorMask, decode_append, BitVec.setWidth_append_eq_right]
  obtain rfl | rfl := BitVec.eq_zero_or_eq_one d
  · exact .inl ⟨by decide, by decide, if_pos rfl⟩
  · exact .inr ⟨by decide, by decide, if_neg (by decide)⟩

/-- Settles O5: two selector values agree exactly when their complements do, and the operations do not read them. -/
theorem selectorPolarityIsANaming : Obligations.SelectorPolarityIsANaming := by
  intro d e r dir w
  obtain ⟨c, v, rfl⟩ := exists_append_eq r
  constructor
  · simp only [append_xor_selectorMask, decode_append, BitVec.not_inj]
  · simp only [convert, BitVec.not_inj, convertToLowLatency_of_selectors (~~~ d) d]

/-- Settles O7: the number cut to its width is accepted exactly below `2 ^ 33`. -/
theorem onlyNumbersBeyondTheWiresAreRejected : Obligations.OnlyNumbersBeyondTheWiresAreRejected := by
  intro nbits w
  rw [decodeTableWord_eq, ← Nat.not_lt]
  simp only [ite_eq_right_iff, reduceCtorEq, imp_false]

/-- Settles O6: the word is the request's own number, so it is not cut; the wires show that request and its result, and a
step decodes what is on the wires. -/
theorem drivenTableWordRunsNext : Obligations.DrivenTableWordRunsNext := by
  intro s nbits w hn hw
  have hcut : w % 2 ^ nbits = w := Nat.mod_eq_of_lt (hw.trans_le (Nat.pow_le_pow_right (by decide) hn))
  have hdriven : s.withFetchWord nbits w = s.present (BitVec.ofNat 33 w) := by rw [State.withFetchWord, hcut]
  rw [decodeTableWord_eq, hcut, if_pos hw, hdriven]
  refine ⟨decode params (BitVec.ofNat 33 w), rfl, ?_, ?_, (resultOf_decode _).symm⟩
  · rw [step, State.present_request]
  · rw [State.present_request, BitVec.toNat_ofNat, Nat.mod_eq_of_lt hw]

/-- Settles O1: the words are computed. -/
theorem writtenWordsDecode : Obligations.WrittenWordsDecode := by
  unfold Obligations.WrittenWordsDecode
  decide

/-! ## The step and the ports (10_state.md, 43_top_and_properties.md) -/

/-- Settles O8: the wires' request is the selector over the operand, and a step runs what it decodes to. -/
theorem stepRunsTheDecodedInstruction : Obligations.StepRunsTheDecodedInstruction := by
  rintro s i rfl -
  rfl

/-- Settles O9: a step leaves the state as it is, and the state's own output is `convert` of its inputs. -/
theorem stepDrivesConvert : Obligations.StepDrivesConvert := fun s => ⟨s, step_eq s, rfl, rfl, s.settled⟩

/-- Settles O11: every state is settled, the driven ones among them, and a driven request is read back by halves. -/
theorem outputFollowsTheInputs : Obligations.OutputFollowsTheInputs := by
  refine ⟨State.settled, State.reset.settled, fun s => ⟨fun d => ⟨rfl, rfl, rfl⟩, fun w => ⟨rfl, rfl, rfl⟩, ?_⟩⟩
  intro d w
  have hdir : (s.present (d ++ w)).dir = d := requestDir_append d w
  have hin : (s.present (d ++ w)).inBits = w := requestBits_append d w
  refine ⟨?_, hdir, hin⟩
  rw [State.settled, hdir, hin]

end Machine
end Sys2Proof
end

section
/-! SUPPORT. The host's sequences (30_encoding.md section 6): one lemma per way a line can go, and by induction on the lines
what a run of them gives. -/

namespace Sys2Proof.Machine

/-- An operand has a value exactly when it refers to a line that has run (R48). -/
theorem Operand.isSome_value (o : Operand) (results : List Word) :
    (o.value results).isSome = o.wellFormed results.length := by
  cases o with
  | lit w => rfl
  | result k =>
    cases k with
    | zero => rfl
    | succ k =>
      rw [Operand.value, Operand.wellFormed, Bool.eq_iff_iff, Option.isSome_iff_exists, decide_eq_true_iff]
      simp [List.getElem?_eq_some_iff]

/-- A line whose operand has no value asks for nothing. -/
theorem Line.instr_eq_none {l : Line} {results : List Word} (h : l.operand.value results = none) :
    l.instr results = none := by
  cases l with
  | toStandard o => exact Option.map_eq_none_iff.mpr h
  | toLowLatency o => exact Option.map_eq_none_iff.mpr h

/-- A line whose operand has a value asks for the instruction that gives the line's result on it. -/
theorem Line.instr_eq_some {l : Line} {results : List Word} {w : Word} (h : l.operand.value results = some w) :
    ∃ i, l.instr results = some i ∧ resultOf i = l.result w := by
  cases l with
  | toStandard o => exact ⟨.toStandard (LL.fromBits w), Option.map_eq_some_iff.mpr ⟨w, h, rfl⟩, rfl⟩
  | toLowLatency o => exact ⟨.toLowLatency (STD.fromBits w), Option.map_eq_some_iff.mpr ⟨w, h, rfl⟩, rfl⟩

/-- A line that refers to no line before it stops the sequence (log entry 11). -/
theorem runLines_cons_of_none {l : Line} {results : List Word} (h : l.operand.value results = none)
    (ls : List Line) (s : State) : runLines (l :: ls) results s = none := by
  rw [runLines, Line.instr_eq_none h]

/-- A line that runs adds its result to those the lines after it can name. -/
theorem runLines_cons_of_some {l : Line} {results : List Word} {w : Word}
    (h : l.operand.value results = some w) (ls : List Line) (s : State) :
    ∃ t, runLines (l :: ls) results s = runLines ls (results ++ [l.result w]) t := by
  obtain ⟨i, hinstr, hresult⟩ := Line.instr_eq_some h
  refine ⟨s.present (encode params i), ?_⟩
  rw [runLines, hinstr, ← hresult, resultOf_eq]
  simp only [step_eq]
  rfl

/-- A sequence runs exactly when each line refers to lines before it only. -/
theorem isSome_runLines (ls : List Line) (results : List Word) (s : State) :
    (runLines ls results s).isSome = linesWellFormed ls results.length := by
  induction ls generalizing results s with
  | nil => rfl
  | cons l ls ih =>
    rw [linesWellFormed, ← Operand.isSome_value]
    cases h : l.operand.value results with
    | none => rw [runLines_cons_of_none h, Option.isSome_none, Option.isSome_none, Bool.false_and]
    | some w =>
      obtain ⟨t, hrun⟩ := runLines_cons_of_some h ls s
      rw [hrun, ih, List.length_append, List.length_singleton, Option.isSome_some, Bool.true_and]

/-- `results` continues `earlier` with one result a line, each of the line's operation on its operand with the results
before it substituted (R48). -/
def AnswersLines (ls : List Line) (earlier results : List Word) : Prop :=
  earlier <+: results ∧ results.length = earlier.length + ls.length ∧
  ∀ k l, ls[k]? = some l → ∃ w, l.operand.value (results.take (earlier.length + k)) = some w ∧
    results[earlier.length + k]? = some (l.result w)

/-- One more line in front: its operand is read over the results before it, and its result stands right after them. -/
theorem AnswersLines.cons {l : Line} {ls : List Line} {earlier results : List Word} {w : Word}
    (hw : l.operand.value earlier = some w) (h : AnswersLines ls (earlier ++ [l.result w]) results) :
    AnswersLines (l :: ls) earlier results := by
  obtain ⟨⟨rest, rfl⟩, hlen, hlines⟩ := h
  have hlength : (earlier ++ [l.result w]).length = earlier.length + 1 := List.length_append
  rw [hlength] at hlen hlines
  rw [List.append_assoc] at hlen hlines ⊢
  refine ⟨List.prefix_append _ _, ?_, ?_⟩
  · rw [hlen, List.length_cons, Nat.add_right_comm, Nat.add_assoc]
  · rintro (_ | k) l' hl'
    · obtain rfl : l = l' := Option.some.inj hl'
      exact ⟨w, by simpa using hw, by simp⟩
    · have hk := hlines k l' hl'
      rwa [Nat.add_right_comm, Nat.add_assoc] at hk

/-- What a run of lines answers. -/
theorem answersLines_of_runLines {ls : List Line} {earlier results : List Word} {s : State}
    (h : runLines ls earlier s = some results) : AnswersLines ls earlier results := by
  induction ls generalizing earlier s with
  | nil =>
    obtain rfl := Option.some.inj h
    exact ⟨List.prefix_rfl, rfl, by simp⟩
  | cons l ls ih =>
    cases hw : l.operand.value earlier with
    | none => exact absurd ((runLines_cons_of_none hw ls s).symm.trans h) (Option.some_ne_none results).symm
    | some w =>
      obtain ⟨t, hrun⟩ := runLines_cons_of_some hw ls s
      exact (ih (hrun.symm.trans h)).cons hw

/-- Settles O15: the two lemmas about a run, from no earlier results. -/
theorem linesRunOverEarlierResults : Obligations.LinesRunOverEarlierResults := by
  intro ls s
  refine ⟨isSome_runLines ls [] s, fun results hrun => ?_⟩
  obtain ⟨-, hlen, hlines⟩ := answersLines_of_runLines hrun
  simp only [List.length_nil, Nat.zero_add] at hlen hlines
  exact ⟨hlen, hlines⟩

end Sys2Proof.Machine
end

section
/-! SUPPORT. The word-level forms of both operations (41_to_standard.md section 3, 42_to_low_latency.md sections 2 and 3):
each packed field, shifted to its place, is a masked part of the operand. -/

namespace Sys2Proof.Machine

/-! ## The terms of the word-level forms -/

/-- The packed low-latency pattern is the or of its fields, each shifted to its place (R65). -/
theorem packLL_representation_eq_or (s : BitVec 1) (e m : Nat) (r : BitVec 1) : (packLL s e m r).representation =
    (s.setWidth 32 <<< 31) ||| ((trunc 7 e).setWidth 32 <<< 24) ||| ((trunc 23 m).setWidth 32 <<< 1) |||
      r.setWidth 32 :=
  calc (packLL s e m r).representation
    _ = (s ++ trunc 7 e ++ trunc 23 m ++ r).setWidth 32 := (BitVec.setWidth_eq _).symm
    _ = _ := BitVec.setWidth_append_append_append_eq_shiftLeft_setWidth_or

/-- The sign bit in its place is the word under the sign's mask. -/
theorem setWidth_sign_shiftLeft (w : Word) : (w.extractLsb' 31 1).setWidth 32 <<< 31 = w &&& 0x80000000#32 := by
  have hw := w.isLt
  apply BitVec.eq_of_toNat_eq
  rw [and_sign_toNat, BitVec.toNat_shiftLeft, BitVec.toNat_setWidth, BitVec.extractLsb'_toNat, Nat.shiftLeft_eq,
    Nat.shiftRight_eq_div_pow]
  omega

/-- The complemented sign bit in its place is the complemented word under the sign's mask (R75, R89). -/
theorem setWidth_not_sign_shiftLeft (w : Word) :
    (~~~ (w.extractLsb' 31 1)).setWidth 32 <<< 31 = ~~~ w &&& 0x80000000#32 := by
  have hnot : ~~~ (w.extractLsb' 31 1) = (~~~ w).extractLsb' 31 1 := by
    rw [extractLsb'_one_eq_ofBool, extractLsb'_one_eq_ofBool, BitVec.getLsbD_not]
    cases w.getLsbD 31 <;> rfl
  rw [hnot, setWidth_sign_shiftLeft]

/-- The mantissa that `toStandard` packs, in its place, is the word's bits 22 to 1 (R71, R75). -/
theorem setWidth_standardMantissa (low : LL) :
    (trunc 23 (standardMantissa low)).setWidth 32 = low.bits &&& 0x007FFFFE#32 := by
  apply BitVec.eq_of_toNat_eq
  rw [and_middle_toNat, BitVec.toNat_setWidth, BitVec.toNat_ofNat, standardMantissa, mantShift, LL.mantissa_toNat,
    Nat.shiftLeft_eq]
  omega

/-- The mantissa that `toLowLatency` packs, in its place, is the word's bits 22 to 1 (R85, R89). -/
theorem setWidth_lowLatencyMantissa_shiftLeft (std : STD) :
    (trunc 23 (lowLatencyMantissa std)).setWidth 32 <<< 1 = std.bits &&& 0x007FFFFE#32 := by
  apply BitVec.eq_of_toNat_eq
  rw [and_middle_toNat, BitVec.toNat_shiftLeft, BitVec.toNat_setWidth, BitVec.toNat_ofNat, lowLatencyMantissa,
    mantShift, STD.mantissa_toNat, Nat.shiftLeft_eq, Nat.shiftRight_eq_div_pow]
  omega

/-- The exponent that `toStandard` packs, as a word: the sum does not leave its eight bits (R70). -/
theorem setWidth_standardExponent (low : LL) :
    (trunc 8 (standardExponent low)).setWidth 32 = low.exponent.setWidth 32 + 127#32 := by
  have he := low.exponent.isLt
  apply BitVec.eq_of_toNat_eq
  simp only [BitVec.toNat_add, BitVec.toNat_setWidth, BitVec.toNat_ofNat, standardExponent, bias]
  omega

/-- The low-latency exponent in the place of the standard one (R75). -/
theorem setWidth_exponent_shiftLeft (w : Word) :
    (w.extractLsb' 24 7).setWidth 32 <<< 23 = (w &&& 0x7F000000#32) >>> 1 := by
  apply BitVec.eq_of_toNat_eq
  rw [BitVec.toNat_shiftLeft, BitVec.toNat_setWidth, BitVec.toNat_ushiftRight, and_exponent_toNat,
    BitVec.extractLsb'_toNat, Nat.shiftLeft_eq, Nat.shiftRight_eq_div_pow, Nat.shiftRight_eq_div_pow]
  omega

/-- The two spellings of the middle term of `toStandard` (R75). -/
theorem exponent_add_bias_shiftLeft (w : Word) : ((w.extractLsb' 24 7).setWidth 32 + 127#32) <<< 23 =
    ((w &&& 0x7F000000#32) >>> 1) + 0x3F800000#32 := by
  have hbias : 127#32 <<< 23 = 0x3F800000#32 := rfl
  rw [BitVec.shiftLeft_add_distrib, setWidth_exponent_shiftLeft, hbias]

/-! ## The word-level forms -/

/-- The first spelling of the word-level form of `toStandard` (R75). -/
theorem convertToStandard_eq_or (w : Word) : convertToStandard w = if w = 0 then (0 : Word) else
    (~~~ w &&& 0x80000000#32) ||| (((w.extractLsb' 24 7).setWidth 32 + 127#32) <<< 23) ||| (w &&& 0x007FFFFE#32) := by
  by_cases h : w = 0
  · subst h
    rfl
  · rw [if_neg h, convertToStandard, toStandard_of_ne_zero (LL.fromBits w) h, packSTD_representation_eq_or,
      ← setWidth_trunc, ← setWidth_trunc, setWidth_standardExponent, setWidth_standardMantissa, standardSign, LL.sign,
      setWidth_not_sign_shiftLeft]
    rfl

/-- Settles O22: the first spelling, whose middle term is the second's. -/
theorem toStandardWordForm : Obligations.ToStandardWordForm := fun w =>
  ⟨convertToStandard_eq_or w, exponent_add_bias_shiftLeft w ▸ convertToStandard_eq_or w⟩

/-- With the machine's parameter, the exponent that `toLowLatency` packs is the saturating difference, which the packer
cuts: 128 to 0, any other not at all (R84, decision D7). -/
theorem trunc_lowLatencyExponent_params (std : STD) :
    trunc 7 (lowLatencyExponent params std) = trunc 7 (saturatingUnbias std.exponent.toNat) := by
  by_cases h : std.exponent.toNat = exp255
  · rw [lowLatencyExponent, if_pos h, h]
    rfl
  · rw [lowLatencyExponent, if_neg h]

/-- Settles O28: the packer sees only the cut of the exponent. -/
theorem exponentField255IsCutByThePacker : Obligations.ExponentField255IsCutByThePacker := by
  intro std
  by_cases h : std.bits = 0
  · have hz : std.representation = 0 := h
    rw [if_pos hz, toLowLatency_of_zero params std h]
  · have hz : ¬ std.representation = 0 := h
    rw [if_neg hz, toLowLatency_of_ne_zero params std h, packLL, trunc_lowLatencyExponent_params]
    rfl

/-- Settles O29: the packed fields as an or, the exponent with the machine's parameter. -/
theorem toLowLatencyWordForm : Obligations.ToLowLatencyWordForm := by
  intro w
  by_cases h : w = 0
  · subst h
    rfl
  · have hflag : (0 : BitVec 1).setWidth 32 = 0#32 := rfl
    rw [if_neg h, convertToLowLatency, toLowLatency_of_ne_zero params (STD.fromBits w) h, packLL_representation_eq_or,
      trunc_lowLatencyExponent_params, saturatingUnbias_eq_max_sub, setWidth_lowLatencyMantissa_shiftLeft,
      lowLatencySign, STD.sign, setWidth_not_sign_shiftLeft, hflag, BitVec.or_zero]
    rfl

/-- Settles O45: each field, cut by the packer, as a word. -/
theorem packLowLatencyCutsAndPlaces : Obligations.PackLowLatencyCutsAndPlaces := by
  intro s e m r
  rw [packLL_representation_eq_or, setWidth_trunc, setWidth_trunc]

/-! ## Exponents (R70, R83, R84) -/

/-- Settles O21: a 7-bit exponent raised by the bias stays in the field. -/
theorem toStandardExponentIsExact : Obligations.ToStandardExponentIsExact := by
  intro low h
  have hfield := low.exponent.isLt
  have hraised := toStandard_exponent_toNat low h
  exact ⟨hraised, by omega, by omega⟩

/-- Settles O27: the three ranges of the exponent's rule; below field 255 the difference is not cut. -/
theorem toLowLatencyExponentTable : Obligations.ToLowLatencyExponentTable := by
  intro p std _
  refine ⟨fun hle => ?_, fun hge hle => ?_, fun h255 => ?_⟩
  · rw [toLowLatency_exponent_of_le_bias p std hle]
    rfl
  · rw [toLowLatency_exponent_of_lt_255 p std (Nat.lt_succ_of_le hle), max_eq_left (by omega), BitVec.toNat_ofNat]
    omega
  · have hfield : std.exponent = 255#8 := BitVec.eq_of_toNat_eq h255
    rw [toLowLatency_exponent, if_pos hfield]

end Sys2Proof.Machine
end

section
/-! SUPPORT. Round trips and images (43_top_and_properties.md section 3): the patterns of both operations as numbers, the
masks of the two dropped bits, and from these the round trips, the images and the operands that share a result. -/

namespace Sys2Proof

/-! ## Bits and masks as arithmetic -/

/-- Masks without a common bit keep parts of the word that add up. -/
theorem and_or_toNat (w m n : Word) (h : m &&& n = 0#32) :
    (w &&& (m ||| n)).toNat = (w &&& m).toNat + (w &&& n).toNat := by
  have hdisjoint : (w &&& m) &&& (w &&& n) = 0#32 := by
    rw [BitVec.and_comm w m, BitVec.and_assoc, ← BitVec.and_assoc w w n, BitVec.and_self, BitVec.and_comm w n,
      ← BitVec.and_assoc, h, BitVec.zero_and]
  rw [BitVec.and_or_distrib_left, ← BitVec.add_eq_or_of_and_eq_zero _ _ hdisjoint,
    BitVec.toNat_add_of_and_eq_zero hdisjoint]

/-- What is left without bits 23 and 0: bits 31 to 24, and bits 22 to 1. -/
theorem and_kept_toNat (w : Word) :
    (w &&& 0xFF7FFFFE#32).toNat = w.toNat / 2 ^ 24 % 2 ^ 8 * 2 ^ 24 + w.toNat / 2 % 2 ^ 22 * 2 := by
  have hhigh : (w &&& 0xFF000000#32).toNat = w.toNat / 2 ^ 24 % 2 ^ 8 * 2 ^ 24 :=
    and_slice_toNat w _ 24 32 (by decide) (by decide)
  rw [← hhigh, ← and_middle_toNat]
  exact and_or_toNat w 0xFF000000#32 0x007FFFFE#32 (by decide)

/-- Bits 23 and 0. -/
theorem and_dropped_toNat (w : Word) :
    (w &&& 0x00800001#32).toNat = w.toNat / 2 ^ 23 % 2 * 2 ^ 23 + w.toNat % 2 := by
  have htop : (w &&& 0x00800000#32).toNat = w.toNat / 2 ^ 23 % 2 * 2 ^ 23 :=
    and_slice_toNat w _ 23 24 (by decide) (by decide)
  have hlow : (w &&& 0x00000001#32).toNat = w.toNat / 2 ^ 0 % 2 * 2 ^ 0 :=
    and_slice_toNat w _ 0 1 (by decide) (by decide)
  rw [Nat.pow_zero, Nat.div_one, Nat.mul_one] at hlow
  rw [← htop, ← hlow]
  exact and_or_toNat w 0x00800000#32 0x00000001#32 (by decide)

/-- Nothing is dropped exactly where the two bits are clear. -/
theorem and_dropped_eq_zero_iff (w : Word) :
    w &&& 0x00800001#32 = 0#32 ↔ w.toNat / 2 ^ 23 % 2 = 0 ∧ w.toNat % 2 = 0 := by
  rw [← BitVec.toNat_inj, and_dropped_toNat, BitVec.toNat_ofNat]
  omega

/-- Everything is kept exactly where the two bits are clear. -/
theorem and_kept_eq_self_iff (w : Word) :
    w &&& 0xFF7FFFFE#32 = w ↔ w.toNat / 2 ^ 23 % 2 = 0 ∧ w.toNat % 2 = 0 := by
  have hw := w.isLt
  rw [← BitVec.toNat_inj, and_kept_toNat]
  omega

/-- A bit of a pattern as a remainder. -/
theorem getLsbD_eq_true_iff {n : Nat} (x : BitVec n) (i : Nat) : x.getLsbD i = true ↔ x.toNat / 2 ^ i % 2 = 1 := by
  rw [← BitVec.testBit_toNat, Nat.testBit_eq_decide_div_mod_eq, decide_eq_true_iff]

/-- Bit 0 is clear in the even patterns. -/
theorem getLsbD_zero_eq_false_iff {n : Nat} (x : BitVec n) : x.getLsbD 0 = false ↔ x.toNat % 2 = 0 := by
  rw [← Bool.not_eq_true, getLsbD_eq_true_iff, Nat.pow_zero, Nat.div_one]
  omega

/-- A pattern is zero when it is as a number. -/
theorem eq_zero_iff_toNat {n : Nat} (x : BitVec n) : x = 0 ↔ x.toNat = 0 := by
  rw [← BitVec.toNat_inj]
  rfl

/-- `toStandard` loses word bit 23 (R71). -/
theorem losesTopMantissaBit_iff (low : LL) :
    Machine.losesTopMantissaBit low ↔ low.bits.toNat / 2 ^ 23 % 2 = 1 := by
  rw [Machine.losesTopMantissaBit, getLsbD_eq_true_iff, LL.mantissa_toNat]
  omega

/-- The reserved flag is word bit 0 (R59). -/
theorem reservedFlagSet_iff (low : LL) : Machine.reservedFlagSet low ↔ low.bits.toNat % 2 = 1 := by
  rw [Machine.reservedFlagSet, ← BitVec.toNat_inj, LL.reservedFlag_toNat]
  rfl

/-- `toLowLatency` loses word bit 0 (R85). -/
theorem losesLowMantissaBit_iff (std : STD) : Machine.losesLowMantissaBit std ↔ std.bits.toNat % 2 = 1 := by
  rw [Machine.losesLowMantissaBit, getLsbD_eq_true_iff, STD.mantissa_toNat]
  omega

namespace Machine

/-! ## The results as numbers -/

/-- The zero pattern converts to the zero pattern (R68, R79). -/
theorem convertToStandard_zero : convertToStandard 0 = 0 :=
  congrArg STD.representation (toStandard_of_zero LL.zero rfl)

/-- The generic rule of `toStandard` on words (R72, R79). -/
theorem convertToStandard_toNat {w : Word} (h : w ≠ 0) : (convertToStandard w).toNat =
    (1 - w.toNat / 2 ^ 31) * 2 ^ 31 + (w.toNat / 2 ^ 24 % 2 ^ 7 + 127) * 2 ^ 23 + w.toNat / 2 % 2 ^ 22 * 2 :=
  toStandard_toNat (LL.fromBits w) h

/-- The generic rule of `toLowLatency` on words (R87, R95). -/
theorem convertToLowLatency_toNat (p : Params) {w : Word} (h : w ≠ 0) : (convertToLowLatency p w).toNat =
    (1 - w.toNat / 2 ^ 31) * 2 ^ 31 + lowLatencyExponent p (STD.fromBits w) * 2 ^ 24 + w.toNat / 2 % 2 ^ 22 * 2 :=
  toLowLatency_toNat p (STD.fromBits w) h

/-- A non-zero operand's exponent is at least the bias after `toStandard`, so its result is not zero (R76 (a)). -/
theorem convertToStandard_eq_zero_iff (w : Word) : convertToStandard w = 0 ↔ w = 0 := by
  constructor
  · intro h
    by_contra hw
    have hnat := convertToStandard_toNat hw
    rw [(eq_zero_iff_toNat _).mp h] at hnat
    omega
  · rintro rfl
    exact convertToStandard_zero

/-- Up to the bias the exponent is 0, and field 255 gives the parameter (R83, R84). -/
theorem lowLatencyExponent_eq_zero_iff (p : Params) (std : STD) : lowLatencyExponent p std = 0 ↔
    std.exponent.toNat ≤ 127 ∨ (std.exponent.toNat = 255 ∧ p.exp255LLExponent = 0) := by
  have hcases := (lowLatencyExponent_spec p std).1
  rw [STD.exponent_toNat, eq_zero_iff_toNat]
  omega

/-- Raised by the bias again, the exponent is the field, clamped below, or for field 255 the raised parameter. -/
theorem lowLatencyExponent_add_bias (p : Params) (std : STD) : lowLatencyExponent p std + 127 =
    if std.exponent.toNat = 255 then 127 + p.exp255LLExponent.toNat else max std.exponent.toNat 127 := by
  have hcases := (lowLatencyExponent_spec p std).1
  rw [STD.exponent_toNat]
  split_ifs <;> omega

/-- The result is zero exactly when its three fields are. -/
theorem convertToLowLatency_eq_zero_iff (p : Params) (w : Word) : convertToLowLatency p w = 0 ↔
    w = 0 ∨ (w.toNat / 2 ^ 31 = 1 ∧ w.toNat / 2 % 2 ^ 22 = 0 ∧ lowLatencyExponent p (STD.fromBits w) = 0) := by
  have hw := w.isLt
  by_cases h : w = 0
  · subst h
    simp only [convertToLowLatency_zero, true_or]
  · rw [eq_zero_iff_toNat, convertToLowLatency_toNat p h, or_iff_right h]
    omega

/-- Settles O31: the three fields, each spelled as in the statement. -/
theorem toLowLatencyZeroSet : Obligations.ToLowLatencyZeroSet := by
  intro p w
  have hw := w.isLt
  have hsign : w.getLsbD 31 = true ↔ w.toNat / 2 ^ 31 = 1 := by
    rw [getLsbD_eq_true_iff]
    omega
  have hmid : w.extractLsb' 1 22 = 0 ↔ w.toNat / 2 % 2 ^ 22 = 0 := by
    rw [eq_zero_iff_toNat, BitVec.extractLsb'_toNat, Nat.shiftRight_eq_div_pow, Nat.pow_one]
  rw [convertToLowLatency_eq_zero_iff, lowLatencyExponent_eq_zero_iff, hsign, hmid]
  rfl

/-! ## What both operations carry across (R37, R89) -/

/-- `toStandard` keeps bits 22 to 1. -/
theorem convertToStandard_and_middle (w : Word) :
    convertToStandard w &&& 0x007FFFFE#32 = w &&& 0x007FFFFE#32 := by
  by_cases h : w = 0
  · rw [h, convertToStandard_zero]
  · apply BitVec.eq_of_toNat_eq
    rw [and_middle_toNat, and_middle_toNat, convertToStandard_toNat h]
    omega

/-- `toLowLatency` keeps bits 22 to 1. -/
theorem convertToLowLatency_and_middle (p : Params) (w : Word) :
    convertToLowLatency p w &&& 0x007FFFFE#32 = w &&& 0x007FFFFE#32 := by
  by_cases h : w = 0
  · rw [h, convertToLowLatency_zero]
  · apply BitVec.eq_of_toNat_eq
    rw [and_middle_toNat, and_middle_toNat, convertToLowLatency_toNat p h]
    omega

/-- `toStandard` clears bit 0. -/
theorem convertToStandard_mod_two (w : Word) : (convertToStandard w).toNat % 2 = 0 := by
  by_cases h : w = 0
  · rw [h, convertToStandard_zero]
    rfl
  · rw [convertToStandard_toNat h]
    omega

/-- `toLowLatency` clears bits 23 and 0 (R90 (a)). -/
theorem convertToLowLatency_and_dropped (p : Params) (w : Word) :
    convertToLowLatency p w &&& 0x00800001#32 = 0#32 := by
  by_cases h : w = 0
  · rw [h, convertToLowLatency_zero]
    rfl
  · rw [and_dropped_eq_zero_iff, convertToLowLatency_toNat p h]
    omega

/-- Words that agree under the mask agree in bits 22 to 1. -/
theorem getLsbD_eq_of_and_middle {v w : Word} (h : v &&& 0x007FFFFE#32 = w &&& 0x007FFFFE#32) {i : Nat}
    (hlo : 1 ≤ i) (hhi : i ≤ 22) : v.getLsbD i = w.getLsbD i := by
  have hmask : ∀ j < 23, 1 ≤ j → (0x007FFFFE#32).getLsbD j = true := by decide
  have hbit := congrArg (BitVec.getLsbD · i) h
  simpa only [BitVec.getLsbD_and, hmask i (Nat.lt_succ_of_le hhi) hlo, Bool.and_true] using hbit

/-- Settles O19: the output is one of the two operations' results, and a step leaves it as it is. -/
theorem middleBitsPassThrough : Obligations.MiddleBitsPassThrough := by
  intro s t hstep
  obtain rfl := Host.Outcome.next.inj ((step_eq s).symm.trans hstep)
  rw [getLsbD_zero_eq_false_iff, s.settled, convert]
  split_ifs
  · exact ⟨convertToStandard_mod_two _, fun i => getLsbD_eq_of_and_middle (convertToStandard_and_middle _)⟩
  · have hdropped := (and_dropped_eq_zero_iff _).mp (convertToLowLatency_and_dropped params s.inBits)
    exact ⟨hdropped.2, fun i => getLsbD_eq_of_and_middle (convertToLowLatency_and_middle params _)⟩

/-! ## The round trip from the low-latency format (R104) -/

/-- `toLowLatency` lowers the exponent that `toStandard` raised: it meets neither the clamp nor field 255 (R100). -/
theorem lowLatencyExponent_convertToStandard (p : Params) {w : Word} (h : w ≠ 0) :
    lowLatencyExponent p (STD.fromBits (convertToStandard w)) = w.toNat / 2 ^ 24 % 2 ^ 7 := by
  have hcases := (lowLatencyExponent_spec p (STD.fromBits (convertToStandard w))).1
  rw [STD.fromBits_bits, convertToStandard_toNat h] at hcases
  omega

/-- The round trip drops bits 23 and 0 and nothing else. -/
theorem convertToLowLatency_convertToStandard (p : Params) (w : Word) :
    convertToLowLatency p (convertToStandard w) = w &&& 0xFF7FFFFE#32 := by
  by_cases h : w = 0
  · rw [h, convertToStandard_zero, convertToLowLatency_zero]
    rfl
  · have hw := w.isLt
    have hne : convertToStandard w ≠ 0 := mt (convertToStandard_eq_zero_iff w).mp h
    have hsign : (convertToStandard w).toNat / 2 ^ 31 = 1 - w.toNat / 2 ^ 31 := by
      rw [convertToStandard_toNat h]
      omega
    have hmid : (convertToStandard w).toNat / 2 % 2 ^ 22 * 2 = w.toNat / 2 % 2 ^ 22 * 2 := by
      rw [← and_middle_toNat, convertToStandard_and_middle, and_middle_toNat]
    apply BitVec.eq_of_toNat_eq
    rw [convertToLowLatency_toNat p hne, lowLatencyExponent_convertToStandard p h, hsign, hmid, and_kept_toNat]
    omega

/-- Settles O37: the mask keeps a word exactly where the two bits are clear, which are the two conditions. -/
theorem lowLatencyRoundTrip : Obligations.LowLatencyRoundTrip := by
  intro p x
  refine ⟨convertToLowLatency_convertToStandard p x, ?_⟩
  rw [convertToLowLatency_convertToStandard, and_kept_eq_self_iff, losesTopMantissaBit_iff, reservedFlagSet_iff,
    LL.fromBits_bits]
  omega

/-- A pattern with bits 23 and 0 clear survives the round trip. -/
theorem convertToLowLatency_convertToStandard_of_and_dropped (p : Params) {v : Word}
    (h : v &&& 0x00800001#32 = 0#32) : convertToLowLatency p (convertToStandard v) = v := by
  rw [convertToLowLatency_convertToStandard, and_kept_eq_self_iff, ← and_dropped_eq_zero_iff]
  exact h

/-- Settles O30: a pattern with the two bits clear is the result of its own conversion to the standard format. -/
theorem toLowLatencyImage : Obligations.ToLowLatencyImage := by
  intro p v
  constructor
  · rintro ⟨w, rfl⟩
    exact convertToLowLatency_and_dropped p w
  · intro hv
    exact ⟨convertToStandard v, convertToLowLatency_convertToStandard_of_and_dropped p hv⟩

/-! ## The operands that share a result of `toStandard` (R73, R76 (e)) -/

/-- Non-zero operands that agree outside bits 23 and 0 have one result: the two bits are read by no rule. -/
theorem convertToStandard_eq_of_and_kept {x y : Word} (hx : x ≠ 0) (hy : y ≠ 0)
    (h : x &&& 0xFF7FFFFE#32 = y &&& 0xFF7FFFFE#32) : convertToStandard x = convertToStandard y := by
  have hbx := x.isLt
  have hby := y.isLt
  replace h := congrArg BitVec.toNat h
  rw [and_kept_toNat, and_kept_toNat] at h
  have hhigh : x.toNat / 2 ^ 24 = y.toNat / 2 ^ 24 := by omega
  have hsign : x.toNat / 2 ^ 31 = y.toNat / 2 ^ 31 := by omega
  have hexp : x.toNat / 2 ^ 24 % 2 ^ 7 = y.toNat / 2 ^ 24 % 2 ^ 7 := by omega
  have hmid : x.toNat / 2 % 2 ^ 22 = y.toNat / 2 % 2 ^ 22 := by omega
  apply BitVec.eq_of_toNat_eq
  rw [convertToStandard_toNat hx, convertToStandard_toNat hy, hsign, hexp, hmid]

/-- Settles O24: the round trip recovers from a result what two operands that share it have in common. -/
theorem toStandardSharedResults : Obligations.ToStandardSharedResults := by
  intro x y
  constructor
  · intro h
    by_cases hx : x = 0
    · have hy : y = 0 := (convertToStandard_eq_zero_iff y).mp (h ▸ (convertToStandard_eq_zero_iff x).mpr hx)
      exact .inl (hx.trans hy.symm)
    · have hy : y ≠ 0 := fun hy =>
        hx ((convertToStandard_eq_zero_iff x).mp (h ▸ (convertToStandard_eq_zero_iff y).mpr hy))
      refine .inr ⟨hx, hy, ?_⟩
      rw [← convertToLowLatency_convertToStandard params x, h, convertToLowLatency_convertToStandard]
  · rintro (rfl | ⟨hx, hy, h⟩)
    · rfl
    · exact convertToStandard_eq_of_and_kept hx hy h

/-! ## The round trip from the standard format (R105) -/

/-- The round trip of an operand that does not convert to zero, as a number: sign and bits 22 to 1 come back. -/
theorem convertToStandard_convertToLowLatency_toNat (p : Params) {y : Word} (h : convertToLowLatency p y ≠ 0) :
    (convertToStandard (convertToLowLatency p y)).toNat = y.toNat / 2 ^ 31 * 2 ^ 31 +
      (lowLatencyExponent p (STD.fromBits y) + 127) * 2 ^ 23 + y.toNat / 2 % 2 ^ 22 * 2 := by
  have hb := y.isLt
  have hy : y ≠ 0 := fun hy => h (hy ▸ convertToLowLatency_zero p)
  have hexp := (lowLatencyExponent_spec p (STD.fromBits y)).2
  rw [convertToStandard_toNat h, convertToLowLatency_toNat p hy]
  omega

/-- The exponent after the round trip is the one that `lowLatencyExponent_add_bias` describes: no field cuts it. -/
theorem standardExponent_toLowLatency (p : Params) (std : STD) (h : std.bits ≠ 0) :
    standardExponent (toLowLatency p std) = lowLatencyExponent p std + 127 := by
  have hfits : lowLatencyExponent p std % 2 ^ 7 = lowLatencyExponent p std :=
    Nat.mod_eq_of_lt (lowLatencyExponent_spec p std).2
  rw [standardExponent, toLowLatency_of_ne_zero p std h, packLL_exponent, BitVec.toNat_ofNat, hfits, bias]

/-- The round trip of an operand that does not convert to zero, by its fields: both complements of the sign cancel, and
each operation keeps bits 22 to 1. -/
theorem toStandard_toLowLatency_representation (p : Params) {std : STD} (h : (toLowLatency p std).bits ≠ 0) :
    (toStandard (toLowLatency p std)).representation = (std.bits &&& 0x80000000#32) |||
      (BitVec.ofNat 32 (lowLatencyExponent p std + 127) <<< 23) ||| (std.bits &&& 0x007FFFFE#32) := by
  have hstd : std.bits ≠ 0 := fun hz => h (congrArg LL.bits (toLowLatency_of_zero p std hz))
  have hsign : standardSign (toLowLatency p std) = std.bits.extractLsb' 31 1 := by
    rw [standardSign, toLowLatency_sign p std hstd, BitVec.not_not, STD.sign]
  have hfits : (lowLatencyExponent p std + 127) % 2 ^ 8 = lowLatencyExponent p std + 127 :=
    Nat.mod_eq_of_lt ((Nat.add_lt_add_right (lowLatencyExponent_spec p std).2 127).trans (by decide))
  have hmid : (toLowLatency p std).bits &&& 0x007FFFFE#32 = std.bits &&& 0x007FFFFE#32 :=
    convertToLowLatency_and_middle p std.bits
  rw [toStandard_of_ne_zero _ h, packSTD_representation_eq_or, hsign, setWidth_sign_shiftLeft,
    standardExponent_toLowLatency p std hstd, hfits, ← setWidth_trunc 23, setWidth_standardMantissa, hmid]

/-- Settles O38: O31's set is where the conversion is zero; elsewhere the fields are the operand's, the exponent raised
again. -/
theorem standardRoundTrip : Obligations.StandardRoundTrip := by
  intro p y
  by_cases hz : convertToLowLatency p y = 0
  · rw [if_pos ((toLowLatencyZeroSet p y).mp hz), hz, convertToStandard_zero]
  · rw [if_neg (mt (toLowLatencyZeroSet p y).mpr hz)]
    refine (toStandard_toLowLatency_representation p hz).trans ?_
    rw [lowLatencyExponent_add_bias]
    rfl

/-- Settles O39, each side as a condition on the same slices of `y`. A word that converts to zero comes back as zero: where
it is not zero itself it clamps, exceeds the exponent field, loses its bit 0, or is 0xBF800000. Any other keeps its sign
and bits 22 to 1, so it comes back exactly where its exponent field and its bit 0 do. -/
theorem standardRoundTripIdentity : Obligations.StandardRoundTripIdentity := by
  intro p y
  have hy := y.isLt
  have hcases := (lowLatencyExponent_spec p (STD.fromBits y)).1
  have hzero := convertToLowLatency_eq_zero_iff p y
  have hexception : y = 0xBF800000 ↔ y.toNat = 0xBF800000 := BitVec.toNat_inj.symm
  rw [eq_zero_iff_toNat y] at hzero
  rw [← BitVec.toNat_inj, eq_zero_iff_toNat y, ne_eq, hexception, losesLowMantissaBit_iff, clampsExponent,
    exceedsExponentField, STD.exponent_toNat, bias, exp255]
  rw [STD.fromBits_bits] at hcases ⊢
  by_cases hz : convertToLowLatency p y = 0
  · rw [hz, convertToStandard_zero, (eq_zero_iff_toNat (0 : Word)).mp rfl]
    replace hzero := hzero.mp hz
    clear hz hexception
    omega
  · rw [convertToStandard_convertToLowLatency_toNat p hz]
    replace hzero := mt hzero.mpr hz
    clear hz hexception
    omega

/-- Settles O23: only zero gives zero; and a pattern in the range is the result of its own conversion to the low-latency
format, save 0xBF800000, which is the result of 0x00000001. -/
theorem toStandardImage : Obligations.ToStandardImage := by
  refine ⟨convertToStandard_eq_zero_iff, fun v => ⟨?_, ?_⟩⟩
  · rintro ⟨w, rfl⟩
    by_cases h : w = 0
    · exact .inl ((convertToStandard_eq_zero_iff w).mpr h)
    · exact .inr ⟨(getLsbD_zero_eq_false_iff _).mpr (convertToStandard_mod_two w),
        (toStandardExponentIsExact (LL.fromBits w) h).2⟩
  · rintro (rfl | ⟨heven, hlo, hhi⟩)
    · exact ⟨0, convertToStandard_zero⟩
    · by_cases hexception : v = 0xBF800000
      · exact ⟨0x00000001, by rw [hexception]; decide⟩
      · refine ⟨convertToLowLatency params v, (standardRoundTripIdentity params v).mpr (.inr ⟨hexception, ?_, ?_, ?_⟩)⟩
        · exact Nat.not_lt.mpr hlo
        · exact Nat.ne_of_lt (Nat.lt_succ_of_le hhi)
        · rw [losesLowMantissaBit_iff, STD.fromBits_bits, (getLsbD_zero_eq_false_iff v).mp heven]
          decide

/-! ## Three conversions in a row (R106) -/

/-- Exactly three words other than zero hold nothing but dropped bits. -/
theorem and_kept_eq_zero_iff (w : Word) : w &&& 0xFF7FFFFE#32 = 0#32 ↔
    w = 0 ∨ w = 0x00000001 ∨ w = 0x00800000 ∨ w = 0x00800001 := by
  have hw := w.isLt
  simp only [← BitVec.toNat_inj, and_kept_toNat, BitVec.ofNat_eq_ofNat, BitVec.toNat_ofNat]
  omega

/-- Settles O40: the low-latency round trip keeps what `toLowLatency` gives, and on the standard side an operand and its
kept bits share a result, unless only one of them is zero. -/
theorem tripleCompositions : Obligations.TripleCompositions := by
  intro p
  refine ⟨fun y => convertToLowLatency_convertToStandard_of_and_dropped p (convertToLowLatency_and_dropped p y),
    fun x => ?_⟩
  rw [convertToLowLatency_convertToStandard]
  split_ifs with h
  · rw [(and_kept_eq_zero_iff x).mpr (.inr h)]
    refine ⟨convertToStandard_zero, ?_⟩
    obtain rfl | rfl | rfl := h <;> decide
  · by_cases hx : x = 0
    · subst hx
      rfl
    · have hkept : x &&& 0xFF7FFFFE#32 ≠ 0#32 := fun hk => ((and_kept_eq_zero_iff x).mp hk).elim hx h
      exact convertToStandard_eq_of_and_kept hkept hx (by rw [BitVec.and_assoc, BitVec.and_self])

/-! ## What every state shows (R76 (d), R90 (a)) -/

/-- Every state's output is `convert` of its inputs, and so in the image of the selected operation. -/
theorem outputInImage (s : State) : OutputInImage s := by
  have hout := s.settled
  rw [convert] at hout
  by_cases h : s.dir = params.dirToStandard
  · rw [if_pos h] at hout
    have himage := (toStandardImage.2 s.outBits).mp ⟨s.inBits, hout.symm⟩
    rw [extractLsb'_toNat_eq_ushiftRight_mod] at himage
    rw [OutputInImage, if_pos h]
    exact himage
  · rw [if_neg h] at hout
    rw [OutputInImage, if_neg h, hout]
    exact convertToLowLatency_and_dropped params s.inBits

/-- Settles O17: every state is settled and in the image, and a step leaves it as it is. -/
theorem stepSettlesTheOutput : Obligations.StepSettlesTheOutput := by
  refine ⟨fun s t hstep => ⟨t.settled, outputInImage t, ?_⟩, fun i s t _ => ⟨t.settled, outputInImage t⟩⟩
  exact (Host.Outcome.next.inj ((step_eq s).symm.trans hstep)).symm

/-- Settles O18: the reset state is a state. -/
theorem resetIsSettled : Obligations.ResetIsSettled := ⟨State.reset.settled, outputInImage State.reset⟩

end Machine
end Sys2Proof
end
